-- ==== Sys2Proof/Word.lean ====
section
/-! DEFINITION. The word types of the machine (spec/00_scope.md R5): a word is 32 bits, a halfword 16, a byte 8;
a logical register number is the 4-bit field that names it. -/

namespace Sys2Proof

/-- A 32-bit value (R5). -/
abbrev Word := BitVec 32

/-- A 16-bit value (R5). -/
abbrev Half := BitVec 16

/-- An 8-bit value (R5), the addressable unit of memory (R40). -/
abbrev Byte := BitVec 8

/-- A logical register number, 0 to 15 (R10): a 4-bit field of an instruction, or the number a 3-bit Thumb field
or the pair `H:R` of Thumb format 5 stands for. -/
abbrev Reg := BitVec 4

end Sys2Proof
end

