-- ==== Sys2Proof/Syntax.lean ====
section
/-! DEFINITION. The syntax of the instruction set: one constructor of `Instr` for each row of spec/opcode_table.json,
in the table's order, with the row's fields as arguments. An ARM constructor carries the condition field (R70);
a Thumb register field of 3 bits is held as the register number it stands for, and `Instr.wf` (WellFormed.lean)
says that it is a low one (notes/assumptions/17.md). Fields an instruction ignores but the row lists are kept. -/

namespace Sys2Proof

/-- The sixteen conditions, in numeric order (R70, R86). -/
inductive Cond where
  | eq | ne | cs | cc | mi | pl | vs | vc | hi | ls | ge | lt | gt | le | al | nv
  deriving DecidableEq, Repr

/-- The four shift kinds, in numeric order (R63, R100). -/
inductive ShiftKind where
  | lsl | lsr | asr | ror
  deriving DecidableEq, Repr

/-- The instructions, one constructor per row of the opcode table. -/
inductive Instr where
  /-- AND, ARM format A1, R123. -/
  | andShiftImm (cond : Cond) (setFlags : Bool) (rn rd : Reg) (shiftImm : BitVec 5) (kind : ShiftKind) (rm : Reg)
  /-- AND, ARM format A2, R123. -/
  | andShiftReg (cond : Cond) (setFlags : Bool) (rn rd rs : Reg) (kind : ShiftKind) (rm : Reg)
  /-- AND, ARM format A3, R123. -/
  | andImm (cond : Cond) (setFlags : Bool) (rn rd : Reg) (rotate : BitVec 4) (imm8 : BitVec 8)
  /-- EOR, ARM format A1, R124. -/
  | eorShiftImm (cond : Cond) (setFlags : Bool) (rn rd : Reg) (shiftImm : BitVec 5) (kind : ShiftKind) (rm : Reg)
  /-- EOR, ARM format A2, R124. -/
  | eorShiftReg (cond : Cond) (setFlags : Bool) (rn rd rs : Reg) (kind : ShiftKind) (rm : Reg)
  /-- EOR, ARM format A3, R124. -/
  | eorImm (cond : Cond) (setFlags : Bool) (rn rd : Reg) (rotate : BitVec 4) (imm8 : BitVec 8)
  /-- SUB, ARM format A1, R125. -/
  | subShiftImm (cond : Cond) (setFlags : Bool) (rn rd : Reg) (shiftImm : BitVec 5) (kind : ShiftKind) (rm : Reg)
  /-- SUB, ARM format A2, R125. -/
  | subShiftReg (cond : Cond) (setFlags : Bool) (rn rd rs : Reg) (kind : ShiftKind) (rm : Reg)
  /-- SUB, ARM format A3, R125. -/
  | subImm (cond : Cond) (setFlags : Bool) (rn rd : Reg) (rotate : BitVec 4) (imm8 : BitVec 8)
  /-- RSB, ARM format A1, R126. -/
  | rsbShiftImm (cond : Cond) (setFlags : Bool) (rn rd : Reg) (shiftImm : BitVec 5) (kind : ShiftKind) (rm : Reg)
  /-- RSB, ARM format A2, R126. -/
  | rsbShiftReg (cond : Cond) (setFlags : Bool) (rn rd rs : Reg) (kind : ShiftKind) (rm : Reg)
  /-- RSB, ARM format A3, R126. -/
  | rsbImm (cond : Cond) (setFlags : Bool) (rn rd : Reg) (rotate : BitVec 4) (imm8 : BitVec 8)
  /-- ADD, ARM format A1, R127. -/
  | addShiftImm (cond : Cond) (setFlags : Bool) (rn rd : Reg) (shiftImm : BitVec 5) (kind : ShiftKind) (rm : Reg)
  /-- ADD, ARM format A2, R127. -/
  | addShiftReg (cond : Cond) (setFlags : Bool) (rn rd rs : Reg) (kind : ShiftKind) (rm : Reg)
  /-- ADD, ARM format A3, R127. -/
  | addImm (cond : Cond) (setFlags : Bool) (rn rd : Reg) (rotate : BitVec 4) (imm8 : BitVec 8)
  /-- ADC, ARM format A1, R128. -/
  | adcShiftImm (cond : Cond) (setFlags : Bool) (rn rd : Reg) (shiftImm : BitVec 5) (kind : ShiftKind) (rm : Reg)
  /-- ADC, ARM format A2, R128. -/
  | adcShiftReg (cond : Cond) (setFlags : Bool) (rn rd rs : Reg) (kind : ShiftKind) (rm : Reg)
  /-- ADC, ARM format A3, R128. -/
  | adcImm (cond : Cond) (setFlags : Bool) (rn rd : Reg) (rotate : BitVec 4) (imm8 : BitVec 8)
  /-- SBC, ARM format A1, R129. -/
  | sbcShiftImm (cond : Cond) (setFlags : Bool) (rn rd : Reg) (shiftImm : BitVec 5) (kind : ShiftKind) (rm : Reg)
  /-- SBC, ARM format A2, R129. -/
  | sbcShiftReg (cond : Cond) (setFlags : Bool) (rn rd rs : Reg) (kind : ShiftKind) (rm : Reg)
  /-- SBC, ARM format A3, R129. -/
  | sbcImm (cond : Cond) (setFlags : Bool) (rn rd : Reg) (rotate : BitVec 4) (imm8 : BitVec 8)
  /-- RSC, ARM format A1, R130. -/
  | rscShiftImm (cond : Cond) (setFlags : Bool) (rn rd : Reg) (shiftImm : BitVec 5) (kind : ShiftKind) (rm : Reg)
  /-- RSC, ARM format A2, R130. -/
  | rscShiftReg (cond : Cond) (setFlags : Bool) (rn rd rs : Reg) (kind : ShiftKind) (rm : Reg)
  /-- RSC, ARM format A3, R130. -/
  | rscImm (cond : Cond) (setFlags : Bool) (rn rd : Reg) (rotate : BitVec 4) (imm8 : BitVec 8)
  /-- TST, ARM format A1, R131. -/
  | tstShiftImm (cond : Cond) (rn rd : Reg) (shiftImm : BitVec 5) (kind : ShiftKind) (rm : Reg)
  /-- TST, ARM format A2, R131. -/
  | tstShiftReg (cond : Cond) (rn rd rs : Reg) (kind : ShiftKind) (rm : Reg)
  /-- TST, ARM format A3, R131. -/
  | tstImm (cond : Cond) (rn rd : Reg) (rotate : BitVec 4) (imm8 : BitVec 8)
  /-- TEQ, ARM format A1, R132. -/
  | teqShiftImm (cond : Cond) (rn rd : Reg) (shiftImm : BitVec 5) (kind : ShiftKind) (rm : Reg)
  /-- TEQ, ARM format A2, R132. -/
  | teqShiftReg (cond : Cond) (rn rd rs : Reg) (kind : ShiftKind) (rm : Reg)
  /-- TEQ, ARM format A3, R132. -/
  | teqImm (cond : Cond) (rn rd : Reg) (rotate : BitVec 4) (imm8 : BitVec 8)
  /-- CMP, ARM format A1, R133. -/
  | cmpShiftImm (cond : Cond) (rn rd : Reg) (shiftImm : BitVec 5) (kind : ShiftKind) (rm : Reg)
  /-- CMP, ARM format A2, R133. -/
  | cmpShiftReg (cond : Cond) (rn rd rs : Reg) (kind : ShiftKind) (rm : Reg)
  /-- CMP, ARM format A3, R133. -/
  | cmpImm (cond : Cond) (rn rd : Reg) (rotate : BitVec 4) (imm8 : BitVec 8)
  /-- CMN, ARM format A1, R134. -/
  | cmnShiftImm (cond : Cond) (rn rd : Reg) (shiftImm : BitVec 5) (kind : ShiftKind) (rm : Reg)
  /-- CMN, ARM format A2, R134. -/
  | cmnShiftReg (cond : Cond) (rn rd rs : Reg) (kind : ShiftKind) (rm : Reg)
  /-- CMN, ARM format A3, R134. -/
  | cmnImm (cond : Cond) (rn rd : Reg) (rotate : BitVec 4) (imm8 : BitVec 8)
  /-- ORR, ARM format A1, R135. -/
  | orrShiftImm (cond : Cond) (setFlags : Bool) (rn rd : Reg) (shiftImm : BitVec 5) (kind : ShiftKind) (rm : Reg)
  /-- ORR, ARM format A2, R135. -/
  | orrShiftReg (cond : Cond) (setFlags : Bool) (rn rd rs : Reg) (kind : ShiftKind) (rm : Reg)
  /-- ORR, ARM format A3, R135. -/
  | orrImm (cond : Cond) (setFlags : Bool) (rn rd : Reg) (rotate : BitVec 4) (imm8 : BitVec 8)
  /-- MOV, ARM format A1, R136. -/
  | movShiftImm (cond : Cond) (setFlags : Bool) (rn rd : Reg) (shiftImm : BitVec 5) (kind : ShiftKind) (rm : Reg)
  /-- MOV, ARM format A2, R136. -/
  | movShiftReg (cond : Cond) (setFlags : Bool) (rn rd rs : Reg) (kind : ShiftKind) (rm : Reg)
  /-- MOV, ARM format A3, R136. -/
  | movImm (cond : Cond) (setFlags : Bool) (rn rd : Reg) (rotate : BitVec 4) (imm8 : BitVec 8)
  /-- BIC, ARM format A1, R137. -/
  | bicShiftImm (cond : Cond) (setFlags : Bool) (rn rd : Reg) (shiftImm : BitVec 5) (kind : ShiftKind) (rm : Reg)
  /-- BIC, ARM format A2, R137. -/
  | bicShiftReg (cond : Cond) (setFlags : Bool) (rn rd rs : Reg) (kind : ShiftKind) (rm : Reg)
  /-- BIC, ARM format A3, R137. -/
  | bicImm (cond : Cond) (setFlags : Bool) (rn rd : Reg) (rotate : BitVec 4) (imm8 : BitVec 8)
  /-- MVN, ARM format A1, R138. -/
  | mvnShiftImm (cond : Cond) (setFlags : Bool) (rn rd : Reg) (shiftImm : BitVec 5) (kind : ShiftKind) (rm : Reg)
  /-- MVN, ARM format A2, R138. -/
  | mvnShiftReg (cond : Cond) (setFlags : Bool) (rn rd rs : Reg) (kind : ShiftKind) (rm : Reg)
  /-- MVN, ARM format A3, R138. -/
  | mvnImm (cond : Cond) (setFlags : Bool) (rn rd : Reg) (rotate : BitVec 4) (imm8 : BitVec 8)
  /-- MUL, ARM format A8, R151. -/
  | mul (cond : Cond) (setFlags : Bool) (rd rn rs rm : Reg)
  /-- MLA, ARM format A8, R152. -/
  | mla (cond : Cond) (setFlags : Bool) (rd rn rs rm : Reg)
  /-- UMULL, ARM format A9, R153. -/
  | umull (cond : Cond) (setFlags : Bool) (rdHi rdLo rs rm : Reg)
  /-- UMLAL, ARM format A9, R154. -/
  | umlal (cond : Cond) (setFlags : Bool) (rdHi rdLo rs rm : Reg)
  /-- SMULL, ARM format A9, R155. -/
  | smull (cond : Cond) (setFlags : Bool) (rdHi rdLo rs rm : Reg)
  /-- SMLAL, ARM format A9, R156. -/
  | smlal (cond : Cond) (setFlags : Bool) (rdHi rdLo rs rm : Reg)
  /-- SWP, ARM format A10, R176. -/
  | swp (cond : Cond) (rn rd rm : Reg)
  /-- SWPB, ARM format A10, R177. -/
  | swpb (cond : Cond) (rn rd rm : Reg)
  /-- STRH, ARM format A11, R172. -/
  | strhReg (cond : Cond) (p u w : Bool) (rn rd rm : Reg)
  /-- STRH, ARM format A12, R172. -/
  | strhImm (cond : Cond) (p u w : Bool) (rn rd : Reg) (immH immL : BitVec 4)
  /-- LDRH, ARM format A11, R171. -/
  | ldrhReg (cond : Cond) (p u w : Bool) (rn rd rm : Reg)
  /-- LDRH, ARM format A12, R171. -/
  | ldrhImm (cond : Cond) (p u w : Bool) (rn rd : Reg) (immH immL : BitVec 4)
  /-- LDRSB, ARM format A11, R173. -/
  | ldrsbReg (cond : Cond) (p u w : Bool) (rn rd rm : Reg)
  /-- LDRSB, ARM format A12, R173. -/
  | ldrsbImm (cond : Cond) (p u w : Bool) (rn rd : Reg) (immH immL : BitVec 4)
  /-- LDRSH, ARM format A11, R174. -/
  | ldrshReg (cond : Cond) (p u w : Bool) (rn rd rm : Reg)
  /-- LDRSH, ARM format A12, R174. -/
  | ldrshImm (cond : Cond) (p u w : Bool) (rn rd : Reg) (immH immL : BitVec 4)
  /-- MRS, ARM format A4, R194. -/
  | mrs (cond : Cond) (spsr : Bool) (rd : Reg)
  /-- MSR, ARM format A5, R196: R = 0: destination CPSR. -/
  | msrCpsrReg (cond : Cond) (mask : BitVec 4) (rm : Reg)
  /-- MSR, ARM format A5, R197: R = 1: destination SPSR. -/
  | msrSpsrReg (cond : Cond) (mask : BitVec 4) (rm : Reg)
  /-- MSR, ARM format A6, R196: R = 0: destination CPSR. -/
  | msrCpsrImm (cond : Cond) (mask rotate : BitVec 4) (imm8 : BitVec 8)
  /-- MSR, ARM format A6, R197: R = 1: destination SPSR. -/
  | msrSpsrImm (cond : Cond) (mask rotate : BitVec 4) (imm8 : BitVec 8)
  /-- BX, ARM format A7, R192. -/
  | bx (cond : Cond) (rm : Reg)
  /-- STR, ARM format A13, R162: pre-indexed forms, P = 1. -/
  | strImmPre (cond : Cond) (u w : Bool) (rn rd : Reg) (imm12 : BitVec 12)
  /-- STR, ARM format A13, R162: post-indexed form, P = 0, W = 0. -/
  | strImmPost (cond : Cond) (u : Bool) (rn rd : Reg) (imm12 : BitVec 12)
  /-- STRT, ARM format A13, R165: post-indexed with W = 1; behaves as STR. -/
  | strtImm (cond : Cond) (u : Bool) (rn rd : Reg) (imm12 : BitVec 12)
  /-- STR, ARM format A14, R162: pre-indexed forms, P = 1. -/
  | strRegPre (cond : Cond) (u w : Bool) (rn rd : Reg) (shiftImm : BitVec 5) (kind : ShiftKind) (rm : Reg)
  /-- STR, ARM format A14, R162: post-indexed form, P = 0, W = 0. -/
  | strRegPost (cond : Cond) (u : Bool) (rn rd : Reg) (shiftImm : BitVec 5) (kind : ShiftKind) (rm : Reg)
  /-- STRT, ARM format A14, R165: post-indexed with W = 1; behaves as STR. -/
  | strtReg (cond : Cond) (u : Bool) (rn rd : Reg) (shiftImm : BitVec 5) (kind : ShiftKind) (rm : Reg)
  /-- LDR, ARM format A13, R161: pre-indexed forms, P = 1. -/
  | ldrImmPre (cond : Cond) (u w : Bool) (rn rd : Reg) (imm12 : BitVec 12)
  /-- LDR, ARM format A13, R161: post-indexed form, P = 0, W = 0. -/
  | ldrImmPost (cond : Cond) (u : Bool) (rn rd : Reg) (imm12 : BitVec 12)
  /-- LDRT, ARM format A13, R165: post-indexed with W = 1; behaves as LDR. -/
  | ldrtImm (cond : Cond) (u : Bool) (rn rd : Reg) (imm12 : BitVec 12)
  /-- LDR, ARM format A14, R161: pre-indexed forms, P = 1. -/
  | ldrRegPre (cond : Cond) (u w : Bool) (rn rd : Reg) (shiftImm : BitVec 5) (kind : ShiftKind) (rm : Reg)
  /-- LDR, ARM format A14, R161: post-indexed form, P = 0, W = 0. -/
  | ldrRegPost (cond : Cond) (u : Bool) (rn rd : Reg) (shiftImm : BitVec 5) (kind : ShiftKind) (rm : Reg)
  /-- LDRT, ARM format A14, R165: post-indexed with W = 1; behaves as LDR. -/
  | ldrtReg (cond : Cond) (u : Bool) (rn rd : Reg) (shiftImm : BitVec 5) (kind : ShiftKind) (rm : Reg)
  /-- STRB, ARM format A13, R164: pre-indexed forms, P = 1. -/
  | strbImmPre (cond : Cond) (u w : Bool) (rn rd : Reg) (imm12 : BitVec 12)
  /-- STRB, ARM format A13, R164: post-indexed form, P = 0, W = 0. -/
  | strbImmPost (cond : Cond) (u : Bool) (rn rd : Reg) (imm12 : BitVec 12)
  /-- STRBT, ARM format A13, R165: post-indexed with W = 1; behaves as STRB. -/
  | strbtImm (cond : Cond) (u : Bool) (rn rd : Reg) (imm12 : BitVec 12)
  /-- STRB, ARM format A14, R164: pre-indexed forms, P = 1. -/
  | strbRegPre (cond : Cond) (u w : Bool) (rn rd : Reg) (shiftImm : BitVec 5) (kind : ShiftKind) (rm : Reg)
  /-- STRB, ARM format A14, R164: post-indexed form, P = 0, W = 0. -/
  | strbRegPost (cond : Cond) (u : Bool) (rn rd : Reg) (shiftImm : BitVec 5) (kind : ShiftKind) (rm : Reg)
  /-- STRBT, ARM format A14, R165: post-indexed with W = 1; behaves as STRB. -/
  | strbtReg (cond : Cond) (u : Bool) (rn rd : Reg) (shiftImm : BitVec 5) (kind : ShiftKind) (rm : Reg)
  /-- LDRB, ARM format A13, R163: pre-indexed forms, P = 1. -/
  | ldrbImmPre (cond : Cond) (u w : Bool) (rn rd : Reg) (imm12 : BitVec 12)
  /-- LDRB, ARM format A13, R163: post-indexed form, P = 0, W = 0. -/
  | ldrbImmPost (cond : Cond) (u : Bool) (rn rd : Reg) (imm12 : BitVec 12)
  /-- LDRBT, ARM format A13, R165: post-indexed with W = 1; behaves as LDRB. -/
  | ldrbtImm (cond : Cond) (u : Bool) (rn rd : Reg) (imm12 : BitVec 12)
  /-- LDRB, ARM format A14, R163: pre-indexed forms, P = 1. -/
  | ldrbRegPre (cond : Cond) (u w : Bool) (rn rd : Reg) (shiftImm : BitVec 5) (kind : ShiftKind) (rm : Reg)
  /-- LDRB, ARM format A14, R163: post-indexed form, P = 0, W = 0. -/
  | ldrbRegPost (cond : Cond) (u : Bool) (rn rd : Reg) (shiftImm : BitVec 5) (kind : ShiftKind) (rm : Reg)
  /-- LDRBT, ARM format A14, R165: post-indexed with W = 1; behaves as LDRB. -/
  | ldrbtReg (cond : Cond) (u : Bool) (rn rd : Reg) (shiftImm : BitVec 5) (kind : ShiftKind) (rm : Reg)
  /-- STM, ARM format A15, R186. -/
  | stm (cond : Cond) (p u sBit w : Bool) (rn : Reg) (list : BitVec 16)
  /-- LDM, ARM format A15, R185. -/
  | ldm (cond : Cond) (p u sBit w : Bool) (rn : Reg) (list : BitVec 16)
  /-- B, ARM format A16, R190. -/
  | b (cond : Cond) (imm24 : BitVec 24)
  /-- BL, ARM format A16, R191. -/
  | bl (cond : Cond) (imm24 : BitVec 24)
  /-- STC, ARM format A17, R202. -/
  | stc (cond : Cond) (p u n w : Bool) (rn : Reg) (crd cp : BitVec 4) (imm8 : BitVec 8)
  /-- LDC, ARM format A17, R201. -/
  | ldc (cond : Cond) (p u n w : Bool) (rn : Reg) (crd cp : BitVec 4) (imm8 : BitVec 8)
  /-- CDP, ARM format A18, R200. -/
  | cdp (cond : Cond) (opc1 crn crd cp : BitVec 4) (opc2 : BitVec 3) (crm : BitVec 4)
  /-- MCR, ARM format A19, R206. -/
  | mcr (cond : Cond) (opc1 : BitVec 3) (crn : BitVec 4) (rd : Reg) (cp : BitVec 4) (opc2 : BitVec 3) (crm : BitVec 4)
  /-- MRC, ARM format A19, R207. -/
  | mrc (cond : Cond) (opc1 : BitVec 3) (crn : BitVec 4) (rd : Reg) (cp : BitVec 4) (opc2 : BitVec 3) (crm : BitVec 4)
  /-- SWI, ARM format A20, R199. -/
  | swi (cond : Cond) (comment : BitVec 24)
  /-- UNDEFINED, ARM, R204: multiply space, bits 27:22 = 000001. -/
  | undefMulSpace (cond : Cond)
  /-- UNDEFINED, ARM, R204: swap space with bit 23 set. -/
  | undefSwapBit23 (cond : Cond)
  /-- UNDEFINED, ARM, R204: swap space with bit 20 set. -/
  | undefSwapBit20 (cond : Cond)
  /-- UNDEFINED, ARM, R204: swap space with bit 21 set. -/
  | undefSwapBit21 (cond : Cond)
  /-- UNDEFINED, ARM, R204: halfword space with L = 0 and S = 1 (LDRD, STRD of later architectures). -/
  | undefHalfStore (cond : Cond)
  /-- UNDEFINED, ARM, R204: opcode 10xx with S = 0, bits 7 and 4 = 1, 0. -/
  | undefTestBit7 (cond : Cond)
  /-- UNDEFINED, ARM, R204: opcode 10xx with S = 0, bits 7:6 = 01, bit 4 = 0. -/
  | undefTestLsl01 (cond : Cond)
  /-- UNDEFINED, ARM, R204: opcode 10xx with S = 0, bits 7:4 = 0010. -/
  | undefTestLo2 (cond : Cond)
  /-- UNDEFINED, ARM, R204: opcode 10xx with S = 0, bits 7:6 = 01, bit 4 = 1. -/
  | undefTestBit6Reg (cond : Cond)
  /-- UNDEFINED, ARM, R204: opcode 10xx with S = 0, bits 7:4 = 0011 (BLX register of later architectures at 0x0123). -/
  | undefTestLo3 (cond : Cond)
  /-- UNDEFINED, ARM, R204: bits 27:20 = 00010000 or 00010100, bits 7:4 = 0001. -/
  | undefMrsLo1 (cond : Cond)
  /-- UNDEFINED, ARM, R204: bits 27:20 = 00010110, bits 7:4 = 0001 (CLZ of later architectures). -/
  | undefMsrSpsrLo1 (cond : Cond)
  /-- UNDEFINED, ARM, R204: immediate form of opcode 1000 or 1010 with S = 0. -/
  | undefTestImm (cond : Cond)
  /-- UNDEFINED, ARM, R204: register-offset transfer space with bit 4 set. -/
  | undefRegOffsetBit4 (cond : Cond)
  /-- LSL, Thumb format T1, R211. -/
  | tLslImm (offset5 : BitVec 5) (rs rd : Reg)
  /-- LSR, Thumb format T1, R212. -/
  | tLsrImm (offset5 : BitVec 5) (rs rd : Reg)
  /-- ASR, Thumb format T1, R213. -/
  | tAsrImm (offset5 : BitVec 5) (rs rd : Reg)
  /-- ADD, Thumb format T2, R214. -/
  | tAddReg (rn rs rd : Reg)
  /-- SUB, Thumb format T2, R215. -/
  | tSubReg (rn rs rd : Reg)
  /-- ADD, Thumb format T2, R216. -/
  | tAddImm3 (imm3 : BitVec 3) (rs rd : Reg)
  /-- SUB, Thumb format T2, R217. -/
  | tSubImm3 (imm3 : BitVec 3) (rs rd : Reg)
  /-- MOV, Thumb format T3, R218. -/
  | tMovImm8 (rd : Reg) (imm8 : BitVec 8)
  /-- CMP, Thumb format T3, R219. -/
  | tCmpImm8 (rd : Reg) (imm8 : BitVec 8)
  /-- ADD, Thumb format T3, R220. -/
  | tAddImm8 (rd : Reg) (imm8 : BitVec 8)
  /-- SUB, Thumb format T3, R221. -/
  | tSubImm8 (rd : Reg) (imm8 : BitVec 8)
  /-- AND, Thumb format T4, R222. -/
  | tAnd (rs rd : Reg)
  /-- EOR, Thumb format T4, R223. -/
  | tEor (rs rd : Reg)
  /-- LSL, Thumb format T4, R224. -/
  | tLslReg (rs rd : Reg)
  /-- LSR, Thumb format T4, R225. -/
  | tLsrReg (rs rd : Reg)
  /-- ASR, Thumb format T4, R226. -/
  | tAsrReg (rs rd : Reg)
  /-- ADC, Thumb format T4, R227. -/
  | tAdc (rs rd : Reg)
  /-- SBC, Thumb format T4, R228. -/
  | tSbc (rs rd : Reg)
  /-- ROR, Thumb format T4, R229. -/
  | tRor (rs rd : Reg)
  /-- TST, Thumb format T4, R230. -/
  | tTst (rs rd : Reg)
  /-- NEG, Thumb format T4, R231. -/
  | tNeg (rs rd : Reg)
  /-- CMP, Thumb format T4, R232. -/
  | tCmpReg (rs rd : Reg)
  /-- CMN, Thumb format T4, R233. -/
  | tCmn (rs rd : Reg)
  /-- ORR, Thumb format T4, R234. -/
  | tOrr (rs rd : Reg)
  /-- MUL, Thumb format T4, R235. -/
  | tMul (rs rd : Reg)
  /-- BIC, Thumb format T4, R236. -/
  | tBic (rs rd : Reg)
  /-- MVN, Thumb format T4, R237. -/
  | tMvn (rs rd : Reg)
  /-- ADD, Thumb format T5, R238. -/
  | tAddHi (src dst : Reg)
  /-- CMP, Thumb format T5, R239. -/
  | tCmpHi (src dst : Reg)
  /-- MOV, Thumb format T5, R240. -/
  | tMovHi (src dst : Reg)
  /-- BX, Thumb format T5, R241. -/
  | tBx (h1 : Bool) (src : Reg)
  /-- LDR, Thumb format T6, R250: PC-relative. -/
  | tLdrPc (rd : Reg) (imm8 : BitVec 8)
  /-- STR, Thumb format T7, R251. -/
  | tStrReg (ro rb rd : Reg)
  /-- STRH, Thumb format T8, R255. -/
  | tStrhReg (ro rb rd : Reg)
  /-- STRB, Thumb format T7, R252. -/
  | tStrbReg (ro rb rd : Reg)
  /-- LDSB, Thumb format T8, R257. -/
  | tLdsbReg (ro rb rd : Reg)
  /-- LDR, Thumb format T7, R253. -/
  | tLdrReg (ro rb rd : Reg)
  /-- LDRH, Thumb format T8, R256. -/
  | tLdrhReg (ro rb rd : Reg)
  /-- LDRB, Thumb format T7, R254. -/
  | tLdrbReg (ro rb rd : Reg)
  /-- LDSH, Thumb format T8, R258. -/
  | tLdshReg (ro rb rd : Reg)
  /-- STR, Thumb format T9, R259. -/
  | tStrImm (offset5 : BitVec 5) (rb rd : Reg)
  /-- LDR, Thumb format T9, R260. -/
  | tLdrImm (offset5 : BitVec 5) (rb rd : Reg)
  /-- STRB, Thumb format T9, R261. -/
  | tStrbImm (offset5 : BitVec 5) (rb rd : Reg)
  /-- LDRB, Thumb format T9, R262. -/
  | tLdrbImm (offset5 : BitVec 5) (rb rd : Reg)
  /-- STRH, Thumb format T10, R263. -/
  | tStrhImm (offset5 : BitVec 5) (rb rd : Reg)
  /-- LDRH, Thumb format T10, R264. -/
  | tLdrhImm (offset5 : BitVec 5) (rb rd : Reg)
  /-- STR, Thumb format T11, R265: SP-relative. -/
  | tStrSp (rd : Reg) (imm8 : BitVec 8)
  /-- LDR, Thumb format T11, R266: SP-relative. -/
  | tLdrSp (rd : Reg) (imm8 : BitVec 8)
  /-- ADD, Thumb format T12, R242: Rd = PC-relative address. -/
  | tAddPc (rd : Reg) (imm8 : BitVec 8)
  /-- ADD, Thumb format T12, R243: Rd = SP-relative address. -/
  | tAddSp (rd : Reg) (imm8 : BitVec 8)
  /-- ADD, Thumb format T13, R244: ADD SP, #imm. -/
  | tIncSp (imm7 : BitVec 7)
  /-- SUB, Thumb format T13, R245: SUB SP, #imm. -/
  | tDecSp (imm7 : BitVec 7)
  /-- PUSH, Thumb format T14, R267. -/
  | tPush (lr : Bool) (list : BitVec 8)
  /-- POP, Thumb format T14, R268. -/
  | tPop (pc : Bool) (list : BitVec 8)
  /-- STMIA, Thumb format T15, R269. -/
  | tStmia (rb : Reg) (list : BitVec 8)
  /-- LDMIA, Thumb format T15, R270. -/
  | tLdmia (rb : Reg) (list : BitVec 8)
  /-- BEQ, Thumb format T16, R280. -/
  | tBeq (soffset8 : BitVec 8)
  /-- BNE, Thumb format T16, R280. -/
  | tBne (soffset8 : BitVec 8)
  /-- BCS, Thumb format T16, R280. -/
  | tBcs (soffset8 : BitVec 8)
  /-- BCC, Thumb format T16, R280. -/
  | tBcc (soffset8 : BitVec 8)
  /-- BMI, Thumb format T16, R280. -/
  | tBmi (soffset8 : BitVec 8)
  /-- BPL, Thumb format T16, R280. -/
  | tBpl (soffset8 : BitVec 8)
  /-- BVS, Thumb format T16, R280. -/
  | tBvs (soffset8 : BitVec 8)
  /-- BVC, Thumb format T16, R280. -/
  | tBvc (soffset8 : BitVec 8)
  /-- BHI, Thumb format T16, R280. -/
  | tBhi (soffset8 : BitVec 8)
  /-- BLS, Thumb format T16, R280. -/
  | tBls (soffset8 : BitVec 8)
  /-- BGE, Thumb format T16, R280. -/
  | tBge (soffset8 : BitVec 8)
  /-- BLT, Thumb format T16, R280. -/
  | tBlt (soffset8 : BitVec 8)
  /-- BGT, Thumb format T16, R280. -/
  | tBgt (soffset8 : BitVec 8)
  /-- BLE, Thumb format T16, R280. -/
  | tBle (soffset8 : BitVec 8)
  /-- SWI, Thumb format T17, R283. -/
  | tSwi (comment : BitVec 8)
  /-- B, Thumb format T18, R284. -/
  | tB (offset11 : BitVec 11)
  /-- BL, Thumb format T19, R285: first half, H = 0. -/
  | tBlHigh (offset11 : BitVec 11)
  /-- BL, Thumb format T19, R286: second half, H = 1. -/
  | tBlLow (offset11 : BitVec 11)
  /-- UNDEFINED, Thumb, R288: 1011 0001. -/
  | tUndefB1
  /-- UNDEFINED, Thumb, R288: 1011 001x. -/
  | tUndefB2
  /-- UNDEFINED, Thumb, R288: 1011 011x. -/
  | tUndefB6
  /-- UNDEFINED, Thumb, R288: 1011 10xx. -/
  | tUndefB8
  /-- UNDEFINED, Thumb, R288: 1011 111x (BKPT of later architectures). -/
  | tUndefBe
  /-- UNDEFINED, Thumb, R288: format 16 with cond = 1110. -/
  | tUndefDe
  /-- UNDEFINED, Thumb, R288: 11101 (BLX suffix of later architectures). -/
  | tUndefE8
  deriving DecidableEq, Repr

/-- Whether an instruction belongs to the Thumb set, whose instructions are 16 bits wide (R60). -/
def Instr.isThumb : Instr → Bool
  | .andShiftImm .. | .andShiftReg .. | .andImm .. | .eorShiftImm ..
  | .eorShiftReg .. | .eorImm .. | .subShiftImm .. | .subShiftReg ..
  | .subImm .. | .rsbShiftImm .. | .rsbShiftReg .. | .rsbImm ..
  | .addShiftImm .. | .addShiftReg .. | .addImm .. | .adcShiftImm ..
  | .adcShiftReg .. | .adcImm .. | .sbcShiftImm .. | .sbcShiftReg ..
  | .sbcImm .. | .rscShiftImm .. | .rscShiftReg .. | .rscImm ..
  | .tstShiftImm .. | .tstShiftReg .. | .tstImm .. | .teqShiftImm ..
  | .teqShiftReg .. | .teqImm .. | .cmpShiftImm .. | .cmpShiftReg ..
  | .cmpImm .. | .cmnShiftImm .. | .cmnShiftReg .. | .cmnImm ..
  | .orrShiftImm .. | .orrShiftReg .. | .orrImm .. | .movShiftImm ..
  | .movShiftReg .. | .movImm .. | .bicShiftImm .. | .bicShiftReg ..
  | .bicImm .. | .mvnShiftImm .. | .mvnShiftReg .. | .mvnImm ..
  | .mul .. | .mla .. | .umull .. | .umlal ..
  | .smull .. | .smlal .. | .swp .. | .swpb ..
  | .strhReg .. | .strhImm .. | .ldrhReg .. | .ldrhImm ..
  | .ldrsbReg .. | .ldrsbImm .. | .ldrshReg .. | .ldrshImm ..
  | .mrs .. | .msrCpsrReg .. | .msrSpsrReg .. | .msrCpsrImm ..
  | .msrSpsrImm .. | .bx .. | .strImmPre .. | .strImmPost ..
  | .strtImm .. | .strRegPre .. | .strRegPost .. | .strtReg ..
  | .ldrImmPre .. | .ldrImmPost .. | .ldrtImm .. | .ldrRegPre ..
  | .ldrRegPost .. | .ldrtReg .. | .strbImmPre .. | .strbImmPost ..
  | .strbtImm .. | .strbRegPre .. | .strbRegPost .. | .strbtReg ..
  | .ldrbImmPre .. | .ldrbImmPost .. | .ldrbtImm .. | .ldrbRegPre ..
  | .ldrbRegPost .. | .ldrbtReg .. | .stm .. | .ldm ..
  | .b .. | .bl .. | .stc .. | .ldc ..
  | .cdp .. | .mcr .. | .mrc .. | .swi ..
  | .undefMulSpace .. | .undefSwapBit23 .. | .undefSwapBit20 .. | .undefSwapBit21 ..
  | .undefHalfStore .. | .undefTestBit7 .. | .undefTestLsl01 .. | .undefTestLo2 ..
  | .undefTestBit6Reg .. | .undefTestLo3 .. | .undefMrsLo1 .. | .undefMsrSpsrLo1 ..
  | .undefTestImm .. | .undefRegOffsetBit4 .. => false
  | .tLslImm .. | .tLsrImm .. | .tAsrImm .. | .tAddReg ..
  | .tSubReg .. | .tAddImm3 .. | .tSubImm3 .. | .tMovImm8 ..
  | .tCmpImm8 .. | .tAddImm8 .. | .tSubImm8 .. | .tAnd ..
  | .tEor .. | .tLslReg .. | .tLsrReg .. | .tAsrReg ..
  | .tAdc .. | .tSbc .. | .tRor .. | .tTst ..
  | .tNeg .. | .tCmpReg .. | .tCmn .. | .tOrr ..
  | .tMul .. | .tBic .. | .tMvn .. | .tAddHi ..
  | .tCmpHi .. | .tMovHi .. | .tBx .. | .tLdrPc ..
  | .tStrReg .. | .tStrhReg .. | .tStrbReg .. | .tLdsbReg ..
  | .tLdrReg .. | .tLdrhReg .. | .tLdrbReg .. | .tLdshReg ..
  | .tStrImm .. | .tLdrImm .. | .tStrbImm .. | .tLdrbImm ..
  | .tStrhImm .. | .tLdrhImm .. | .tStrSp .. | .tLdrSp ..
  | .tAddPc .. | .tAddSp .. | .tIncSp .. | .tDecSp ..
  | .tPush .. | .tPop .. | .tStmia .. | .tLdmia ..
  | .tBeq .. | .tBne .. | .tBcs .. | .tBcc ..
  | .tBmi .. | .tBpl .. | .tBvs .. | .tBvc ..
  | .tBhi .. | .tBls .. | .tBge .. | .tBlt ..
  | .tBgt .. | .tBle .. | .tSwi .. | .tB ..
  | .tBlHigh .. | .tBlLow .. | .tUndefB1 | .tUndefB2
  | .tUndefB6 | .tUndefB8 | .tUndefBe | .tUndefDe
  | .tUndefE8 => true

end Sys2Proof
end

