-- ==== Sys2Proof/WellFormed.lean ====
section
/-! DEFINITION. Well-formed instructions: those an encoding stands for. The argument types already bound every field
but one kind: a 3-bit Thumb register field can name r0 to r7 only (spec/10_state.md R10, spec/30_encoding.md R67). -/

namespace Sys2Proof

/-- A register a 3-bit field can name: r0 to r7, the "low registers" (R10). -/
def Reg.isLow (r : Reg) : Bool := r.ult 8#4

/-- Every register operand of a Thumb instruction with 3-bit fields is a low register; nothing else is to check. -/
def Instr.wf : Instr → Bool
  | .andShiftImm .. | .andShiftReg .. | .andImm .. | .eorShiftImm ..
  | .eorShiftReg .. | .eorImm .. | .subShiftImm .. | .subShiftReg ..
  | .subImm .. | .rsbShiftImm .. | .rsbShiftReg .. | .rsbImm ..
  | .addShiftImm .. | .addShiftReg .. | .addImm .. | .adcShiftImm ..
  | .adcShiftReg .. | .adcImm .. | .sbcShiftImm .. | .sbcShiftReg ..
  | .sbcImm .. | .rscShiftImm .. | .rscShiftReg .. | .rscImm ..
  | .tstShiftImm .. | .tstShiftReg .. | .tstImm .. | .teqShiftImm ..
  | .teqShiftReg .. | .teqImm .. | .cmpShiftImm .. | .cmpShiftReg ..
  | .cmpImm .. | .cmnShiftImm .. | .cmnShiftReg .. | .cmnImm ..
  | .orrShiftImm .. | .orrShiftReg .. | .orrImm .. | .movShiftImm ..
  | .movShiftReg .. | .movImm .. | .bicShiftImm .. | .bicShiftReg ..
  | .bicImm .. | .mvnShiftImm .. | .mvnShiftReg .. | .mvnImm ..
  | .mul .. | .mla .. | .umull .. | .umlal ..
  | .smull .. | .smlal .. | .swp .. | .swpb ..
  | .strhReg .. | .strhImm .. | .ldrhReg .. | .ldrhImm ..
  | .ldrsbReg .. | .ldrsbImm .. | .ldrshReg .. | .ldrshImm ..
  | .mrs .. | .msrCpsrReg .. | .msrSpsrReg .. | .msrCpsrImm ..
  | .msrSpsrImm .. | .bx .. | .strImmPre .. | .strImmPost ..
  | .strtImm .. | .strRegPre .. | .strRegPost .. | .strtReg ..
  | .ldrImmPre .. | .ldrImmPost .. | .ldrtImm .. | .ldrRegPre ..
  | .ldrRegPost .. | .ldrtReg .. | .strbImmPre .. | .strbImmPost ..
  | .strbtImm .. | .strbRegPre .. | .strbRegPost .. | .strbtReg ..
  | .ldrbImmPre .. | .ldrbImmPost .. | .ldrbtImm .. | .ldrbRegPre ..
  | .ldrbRegPost .. | .ldrbtReg .. | .stm .. | .ldm ..
  | .b .. | .bl .. | .stc .. | .ldc ..
  | .cdp .. | .mcr .. | .mrc .. | .swi ..
  | .undefMulSpace .. | .undefSwapBit23 .. | .undefSwapBit20 .. | .undefSwapBit21 ..
  | .undefHalfStore .. | .undefTestBit7 .. | .undefTestLsl01 .. | .undefTestLo2 ..
  | .undefTestBit6Reg .. | .undefTestLo3 .. | .undefMrsLo1 .. | .undefMsrSpsrLo1 ..
  | .undefTestImm .. | .undefRegOffsetBit4 .. => true
  | .tLslImm _ rs rd => Reg.isLow rs && Reg.isLow rd
  | .tLsrImm _ rs rd => Reg.isLow rs && Reg.isLow rd
  | .tAsrImm _ rs rd => Reg.isLow rs && Reg.isLow rd
  | .tAddReg rn rs rd => Reg.isLow rn && Reg.isLow rs && Reg.isLow rd
  | .tSubReg rn rs rd => Reg.isLow rn && Reg.isLow rs && Reg.isLow rd
  | .tAddImm3 _ rs rd => Reg.isLow rs && Reg.isLow rd
  | .tSubImm3 _ rs rd => Reg.isLow rs && Reg.isLow rd
  | .tMovImm8 rd _ => Reg.isLow rd
  | .tCmpImm8 rd _ => Reg.isLow rd
  | .tAddImm8 rd _ => Reg.isLow rd
  | .tSubImm8 rd _ => Reg.isLow rd
  | .tAnd rs rd => Reg.isLow rs && Reg.isLow rd
  | .tEor rs rd => Reg.isLow rs && Reg.isLow rd
  | .tLslReg rs rd => Reg.isLow rs && Reg.isLow rd
  | .tLsrReg rs rd => Reg.isLow rs && Reg.isLow rd
  | .tAsrReg rs rd => Reg.isLow rs && Reg.isLow rd
  | .tAdc rs rd => Reg.isLow rs && Reg.isLow rd
  | .tSbc rs rd => Reg.isLow rs && Reg.isLow rd
  | .tRor rs rd => Reg.isLow rs && Reg.isLow rd
  | .tTst rs rd => Reg.isLow rs && Reg.isLow rd
  | .tNeg rs rd => Reg.isLow rs && Reg.isLow rd
  | .tCmpReg rs rd => Reg.isLow rs && Reg.isLow rd
  | .tCmn rs rd => Reg.isLow rs && Reg.isLow rd
  | .tOrr rs rd => Reg.isLow rs && Reg.isLow rd
  | .tMul rs rd => Reg.isLow rs && Reg.isLow rd
  | .tBic rs rd => Reg.isLow rs && Reg.isLow rd
  | .tMvn rs rd => Reg.isLow rs && Reg.isLow rd
  | .tLdrPc rd _ => Reg.isLow rd
  | .tStrReg ro rb rd => Reg.isLow ro && Reg.isLow rb && Reg.isLow rd
  | .tStrhReg ro rb rd => Reg.isLow ro && Reg.isLow rb && Reg.isLow rd
  | .tStrbReg ro rb rd => Reg.isLow ro && Reg.isLow rb && Reg.isLow rd
  | .tLdsbReg ro rb rd => Reg.isLow ro && Reg.isLow rb && Reg.isLow rd
  | .tLdrReg ro rb rd => Reg.isLow ro && Reg.isLow rb && Reg.isLow rd
  | .tLdrhReg ro rb rd => Reg.isLow ro && Reg.isLow rb && Reg.isLow rd
  | .tLdrbReg ro rb rd => Reg.isLow ro && Reg.isLow rb && Reg.isLow rd
  | .tLdshReg ro rb rd => Reg.isLow ro && Reg.isLow rb && Reg.isLow rd
  | .tStrImm _ rb rd => Reg.isLow rb && Reg.isLow rd
  | .tLdrImm _ rb rd => Reg.isLow rb && Reg.isLow rd
  | .tStrbImm _ rb rd => Reg.isLow rb && Reg.isLow rd
  | .tLdrbImm _ rb rd => Reg.isLow rb && Reg.isLow rd
  | .tStrhImm _ rb rd => Reg.isLow rb && Reg.isLow rd
  | .tLdrhImm _ rb rd => Reg.isLow rb && Reg.isLow rd
  | .tStrSp rd _ => Reg.isLow rd
  | .tLdrSp rd _ => Reg.isLow rd
  | .tAddPc rd _ => Reg.isLow rd
  | .tAddSp rd _ => Reg.isLow rd
  | .tStmia rb _ => Reg.isLow rb
  | .tLdmia rb _ => Reg.isLow rb
  | .tAddHi .. | .tCmpHi .. | .tMovHi .. | .tBx ..
  | .tIncSp .. | .tDecSp .. | .tPush .. | .tPop ..
  | .tBeq .. | .tBne .. | .tBcs .. | .tBcc ..
  | .tBmi .. | .tBpl .. | .tBvs .. | .tBvc ..
  | .tBhi .. | .tBls .. | .tBge .. | .tBlt ..
  | .tBgt .. | .tBle .. | .tSwi .. | .tB ..
  | .tBlHigh .. | .tBlLow .. | .tUndefB1 | .tUndefB2
  | .tUndefB6 | .tUndefB8 | .tUndefBe | .tUndefDe
  | .tUndefE8 => true

end Sys2Proof
end

