-- ==== Sys2Proof/Decode.lean ====
section
/-! DEFINITION. Decoding and encoding (spec/30_encoding.md). The decoder is the rows of spec/opcode_table.json, chosen by the
twelve index bits of an ARM word (R61, R64) or the ten of a Thumb halfword (R66, R68) alone (R62), and reads each field
at the row's place. The encoder is written apart from it, from the format tables of R63 and R67, and puts the
should-be-one and should-be-zero values there (notes/assumptions/16.md). -/

namespace Sys2Proof

/-- The condition field's value (R70). -/
def Cond.bits : Cond → BitVec 4
  | .eq => 0x0#4 | .ne => 0x1#4 | .cs => 0x2#4 | .cc => 0x3#4
  | .mi => 0x4#4 | .pl => 0x5#4 | .vs => 0x6#4 | .vc => 0x7#4
  | .hi => 0x8#4 | .ls => 0x9#4 | .ge => 0xA#4 | .lt => 0xB#4
  | .gt => 0xC#4 | .le => 0xD#4 | .al => 0xE#4 | .nv => 0xF#4

/-- The condition a field's value names (R70). -/
def Cond.ofBits (b : BitVec 4) : Cond :=
  match b.toNat with
  | 0 => .eq | 1 => .ne | 2 => .cs | 3 => .cc | 4 => .mi | 5 => .pl | 6 => .vs | 7 => .vc
  | 8 => .hi | 9 => .ls | 10 => .ge | 11 => .lt | 12 => .gt | 13 => .le | 14 => .al | _ => .nv

/-- The shift kind's code (R63: 00 LSL, 01 LSR, 10 ASR, 11 ROR). -/
def ShiftKind.bits : ShiftKind → BitVec 2
  | .lsl => 0#2 | .lsr => 1#2 | .asr => 2#2 | .ror => 3#2

/-- The shift kind a code names (R63). -/
def ShiftKind.ofBits (b : BitVec 2) : ShiftKind :=
  match b.toNat with
  | 0 => .lsl | 1 => .lsr | 2 => .asr | _ => .ror

/-- The low register a 3-bit Thumb field names (R67). -/
def lowReg (h : Half) (k : Nat) : Reg := (h.extractLsb' k 3).setWidth 4

/-- One row of the ARM table: the index bits it fixes, as spec/opcode_table.json gives them, and the instruction it reads. -/
structure ArmRow where
  mask : Word
  pattern : Word
  build : Word → Instr

/-- One row of the Thumb table. -/
structure ThumbRow where
  mask : Half
  pattern : Half
  build : Half → Instr

/-- Rows of format A1: where the fields of `andShiftImm` and its like stand. -/
def rowA1 (mask pattern : Word) (mk : Cond → Bool → Reg → Reg → BitVec 5 → ShiftKind → Reg → Instr) : ArmRow :=
  ⟨mask, pattern, fun w => mk (Cond.ofBits (w.extractLsb' 28 4)) (w.getLsbD 20) (w.extractLsb' 16 4) (w.extractLsb' 12 4) (w.extractLsb' 7 5) (ShiftKind.ofBits (w.extractLsb' 5 2)) (w.extractLsb' 0 4)⟩

/-- Rows of format A2: where the fields of `andShiftReg` and its like stand. -/
def rowA2 (mask pattern : Word) (mk : Cond → Bool → Reg → Reg → Reg → ShiftKind → Reg → Instr) : ArmRow :=
  ⟨mask, pattern, fun w => mk (Cond.ofBits (w.extractLsb' 28 4)) (w.getLsbD 20) (w.extractLsb' 16 4) (w.extractLsb' 12 4) (w.extractLsb' 8 4) (ShiftKind.ofBits (w.extractLsb' 5 2)) (w.extractLsb' 0 4)⟩

/-- Rows of format A3: where the fields of `andImm` and its like stand. -/
def rowA3 (mask pattern : Word) (mk : Cond → Bool → Reg → Reg → BitVec 4 → BitVec 8 → Instr) : ArmRow :=
  ⟨mask, pattern, fun w => mk (Cond.ofBits (w.extractLsb' 28 4)) (w.getLsbD 20) (w.extractLsb' 16 4) (w.extractLsb' 12 4) (w.extractLsb' 8 4) (w.extractLsb' 0 8)⟩

/-- Rows of format A1: where the fields of `tstShiftImm` and its like stand. -/
def rowA1t (mask pattern : Word) (mk : Cond → Reg → Reg → BitVec 5 → ShiftKind → Reg → Instr) : ArmRow :=
  ⟨mask, pattern, fun w => mk (Cond.ofBits (w.extractLsb' 28 4)) (w.extractLsb' 16 4) (w.extractLsb' 12 4) (w.extractLsb' 7 5) (ShiftKind.ofBits (w.extractLsb' 5 2)) (w.extractLsb' 0 4)⟩

/-- Rows of format A2: where the fields of `tstShiftReg` and its like stand. -/
def rowA2t (mask pattern : Word) (mk : Cond → Reg → Reg → Reg → ShiftKind → Reg → Instr) : ArmRow :=
  ⟨mask, pattern, fun w => mk (Cond.ofBits (w.extractLsb' 28 4)) (w.extractLsb' 16 4) (w.extractLsb' 12 4) (w.extractLsb' 8 4) (ShiftKind.ofBits (w.extractLsb' 5 2)) (w.extractLsb' 0 4)⟩

/-- Rows of format A3: where the fields of `tstImm` and its like stand. -/
def rowA3t (mask pattern : Word) (mk : Cond → Reg → Reg → BitVec 4 → BitVec 8 → Instr) : ArmRow :=
  ⟨mask, pattern, fun w => mk (Cond.ofBits (w.extractLsb' 28 4)) (w.extractLsb' 16 4) (w.extractLsb' 12 4) (w.extractLsb' 8 4) (w.extractLsb' 0 8)⟩

/-- Rows of format A8: where the fields of `mul` and its like stand. -/
def rowA8 (mask pattern : Word) (mk : Cond → Bool → Reg → Reg → Reg → Reg → Instr) : ArmRow :=
  ⟨mask, pattern, fun w => mk (Cond.ofBits (w.extractLsb' 28 4)) (w.getLsbD 20) (w.extractLsb' 16 4) (w.extractLsb' 12 4) (w.extractLsb' 8 4) (w.extractLsb' 0 4)⟩

/-- Rows of format A9: where the fields of `umull` and its like stand. -/
def rowA9 (mask pattern : Word) (mk : Cond → Bool → Reg → Reg → Reg → Reg → Instr) : ArmRow :=
  ⟨mask, pattern, fun w => mk (Cond.ofBits (w.extractLsb' 28 4)) (w.getLsbD 20) (w.extractLsb' 16 4) (w.extractLsb' 12 4) (w.extractLsb' 8 4) (w.extractLsb' 0 4)⟩

/-- Rows of format A10: where the fields of `swp` and its like stand. -/
def rowA10 (mask pattern : Word) (mk : Cond → Reg → Reg → Reg → Instr) : ArmRow :=
  ⟨mask, pattern, fun w => mk (Cond.ofBits (w.extractLsb' 28 4)) (w.extractLsb' 16 4) (w.extractLsb' 12 4) (w.extractLsb' 0 4)⟩

/-- Rows of format A11: where the fields of `strhReg` and its like stand. -/
def rowA11 (mask pattern : Word) (mk : Cond → Bool → Bool → Bool → Reg → Reg → Reg → Instr) : ArmRow :=
  ⟨mask, pattern, fun w => mk (Cond.ofBits (w.extractLsb' 28 4)) (w.getLsbD 24) (w.getLsbD 23) (w.getLsbD 21) (w.extractLsb' 16 4) (w.extractLsb' 12 4) (w.extractLsb' 0 4)⟩

/-- Rows of format A12: where the fields of `strhImm` and its like stand. -/
def rowA12 (mask pattern : Word) (mk : Cond → Bool → Bool → Bool → Reg → Reg → BitVec 4 → BitVec 4 → Instr) : ArmRow :=
  ⟨mask, pattern, fun w => mk (Cond.ofBits (w.extractLsb' 28 4)) (w.getLsbD 24) (w.getLsbD 23) (w.getLsbD 21) (w.extractLsb' 16 4) (w.extractLsb' 12 4) (w.extractLsb' 8 4) (w.extractLsb' 0 4)⟩

/-- Rows of format A4: where the fields of `mrs` and its like stand. -/
def rowA4 (mask pattern : Word) (mk : Cond → Bool → Reg → Instr) : ArmRow :=
  ⟨mask, pattern, fun w => mk (Cond.ofBits (w.extractLsb' 28 4)) (w.getLsbD 22) (w.extractLsb' 12 4)⟩

/-- Rows of format A5: where the fields of `msrCpsrReg` and its like stand. -/
def rowA5 (mask pattern : Word) (mk : Cond → BitVec 4 → Reg → Instr) : ArmRow :=
  ⟨mask, pattern, fun w => mk (Cond.ofBits (w.extractLsb' 28 4)) (w.extractLsb' 16 4) (w.extractLsb' 0 4)⟩

/-- Rows of format A6: where the fields of `msrCpsrImm` and its like stand. -/
def rowA6 (mask pattern : Word) (mk : Cond → BitVec 4 → BitVec 4 → BitVec 8 → Instr) : ArmRow :=
  ⟨mask, pattern, fun w => mk (Cond.ofBits (w.extractLsb' 28 4)) (w.extractLsb' 16 4) (w.extractLsb' 8 4) (w.extractLsb' 0 8)⟩

/-- Rows of format A7: where the fields of `bx` and its like stand. -/
def rowA7 (mask pattern : Word) (mk : Cond → Reg → Instr) : ArmRow :=
  ⟨mask, pattern, fun w => mk (Cond.ofBits (w.extractLsb' 28 4)) (w.extractLsb' 0 4)⟩

/-- Rows of format A13: where the fields of `strImmPre` and its like stand. -/
def rowA13pre (mask pattern : Word) (mk : Cond → Bool → Bool → Reg → Reg → BitVec 12 → Instr) : ArmRow :=
  ⟨mask, pattern, fun w => mk (Cond.ofBits (w.extractLsb' 28 4)) (w.getLsbD 23) (w.getLsbD 21) (w.extractLsb' 16 4) (w.extractLsb' 12 4) (w.extractLsb' 0 12)⟩

/-- Rows of format A13: where the fields of `strImmPost` and its like stand. -/
def rowA13post (mask pattern : Word) (mk : Cond → Bool → Reg → Reg → BitVec 12 → Instr) : ArmRow :=
  ⟨mask, pattern, fun w => mk (Cond.ofBits (w.extractLsb' 28 4)) (w.getLsbD 23) (w.extractLsb' 16 4) (w.extractLsb' 12 4) (w.extractLsb' 0 12)⟩

/-- Rows of format A14: where the fields of `strRegPre` and its like stand. -/
def rowA14pre (mask pattern : Word) (mk : Cond → Bool → Bool → Reg → Reg → BitVec 5 → ShiftKind → Reg → Instr) : ArmRow :=
  ⟨mask, pattern, fun w => mk (Cond.ofBits (w.extractLsb' 28 4)) (w.getLsbD 23) (w.getLsbD 21) (w.extractLsb' 16 4) (w.extractLsb' 12 4) (w.extractLsb' 7 5) (ShiftKind.ofBits (w.extractLsb' 5 2)) (w.extractLsb' 0 4)⟩

/-- Rows of format A14: where the fields of `strRegPost` and its like stand. -/
def rowA14post (mask pattern : Word) (mk : Cond → Bool → Reg → Reg → BitVec 5 → ShiftKind → Reg → Instr) : ArmRow :=
  ⟨mask, pattern, fun w => mk (Cond.ofBits (w.extractLsb' 28 4)) (w.getLsbD 23) (w.extractLsb' 16 4) (w.extractLsb' 12 4) (w.extractLsb' 7 5) (ShiftKind.ofBits (w.extractLsb' 5 2)) (w.extractLsb' 0 4)⟩

/-- Rows of format A15: where the fields of `stm` and its like stand. -/
def rowA15 (mask pattern : Word) (mk : Cond → Bool → Bool → Bool → Bool → Reg → BitVec 16 → Instr) : ArmRow :=
  ⟨mask, pattern, fun w => mk (Cond.ofBits (w.extractLsb' 28 4)) (w.getLsbD 24) (w.getLsbD 23) (w.getLsbD 22) (w.getLsbD 21) (w.extractLsb' 16 4) (w.extractLsb' 0 16)⟩

/-- Rows of format A16: where the fields of `b` and its like stand. -/
def rowA16 (mask pattern : Word) (mk : Cond → BitVec 24 → Instr) : ArmRow :=
  ⟨mask, pattern, fun w => mk (Cond.ofBits (w.extractLsb' 28 4)) (w.extractLsb' 0 24)⟩

/-- Rows of format A17: where the fields of `stc` and its like stand. -/
def rowA17 (mask pattern : Word) (mk : Cond → Bool → Bool → Bool → Bool → Reg → BitVec 4 → BitVec 4 → BitVec 8 → Instr) : ArmRow :=
  ⟨mask, pattern, fun w => mk (Cond.ofBits (w.extractLsb' 28 4)) (w.getLsbD 24) (w.getLsbD 23) (w.getLsbD 22) (w.getLsbD 21) (w.extractLsb' 16 4) (w.extractLsb' 12 4) (w.extractLsb' 8 4) (w.extractLsb' 0 8)⟩

/-- Rows of format A18: where the fields of `cdp` and its like stand. -/
def rowA18 (mask pattern : Word) (mk : Cond → BitVec 4 → BitVec 4 → BitVec 4 → BitVec 4 → BitVec 3 → BitVec 4 → Instr) : ArmRow :=
  ⟨mask, pattern, fun w => mk (Cond.ofBits (w.extractLsb' 28 4)) (w.extractLsb' 20 4) (w.extractLsb' 16 4) (w.extractLsb' 12 4) (w.extractLsb' 8 4) (w.extractLsb' 5 3) (w.extractLsb' 0 4)⟩

/-- Rows of format A19: where the fields of `mcr` and its like stand. -/
def rowA19 (mask pattern : Word) (mk : Cond → BitVec 3 → BitVec 4 → Reg → BitVec 4 → BitVec 3 → BitVec 4 → Instr) : ArmRow :=
  ⟨mask, pattern, fun w => mk (Cond.ofBits (w.extractLsb' 28 4)) (w.extractLsb' 21 3) (w.extractLsb' 16 4) (w.extractLsb' 12 4) (w.extractLsb' 8 4) (w.extractLsb' 5 3) (w.extractLsb' 0 4)⟩

/-- Rows of format A20: where the fields of `swi` and its like stand. -/
def rowA20 (mask pattern : Word) (mk : Cond → BitVec 24 → Instr) : ArmRow :=
  ⟨mask, pattern, fun w => mk (Cond.ofBits (w.extractLsb' 28 4)) (w.extractLsb' 0 24)⟩

/-- Rows of undefined encodings: where the fields of `undefMulSpace` and its like stand. -/
def rowU (mask pattern : Word) (mk : Cond → Instr) : ArmRow :=
  ⟨mask, pattern, fun w => mk (Cond.ofBits (w.extractLsb' 28 4))⟩

/-- Rows of format T1: where the fields of `tLslImm` and its like stand. -/
def rowT1 (mask pattern : Half) (mk : BitVec 5 → Reg → Reg → Instr) : ThumbRow :=
  ⟨mask, pattern, fun h => mk (h.extractLsb' 6 5) (lowReg h 3) (lowReg h 0)⟩

/-- Rows of format T2: where the fields of `tAddReg` and its like stand. -/
def rowT2r (mask pattern : Half) (mk : Reg → Reg → Reg → Instr) : ThumbRow :=
  ⟨mask, pattern, fun h => mk (lowReg h 6) (lowReg h 3) (lowReg h 0)⟩

/-- Rows of format T2: where the fields of `tAddImm3` and its like stand. -/
def rowT2i (mask pattern : Half) (mk : BitVec 3 → Reg → Reg → Instr) : ThumbRow :=
  ⟨mask, pattern, fun h => mk (h.extractLsb' 6 3) (lowReg h 3) (lowReg h 0)⟩

/-- Rows of format T3: where the fields of `tMovImm8` and its like stand. -/
def rowT3 (mask pattern : Half) (mk : Reg → BitVec 8 → Instr) : ThumbRow :=
  ⟨mask, pattern, fun h => mk (lowReg h 8) (h.extractLsb' 0 8)⟩

/-- Rows of format T4: where the fields of `tAnd` and its like stand. -/
def rowT4 (mask pattern : Half) (mk : Reg → Reg → Instr) : ThumbRow :=
  ⟨mask, pattern, fun h => mk (lowReg h 3) (lowReg h 0)⟩

/-- Rows of format T5: where the fields of `tAddHi` and its like stand. -/
def rowT5 (mask pattern : Half) (mk : Reg → Reg → Instr) : ThumbRow :=
  ⟨mask, pattern, fun h => mk (h.extractLsb' 3 4) (h.extractLsb' 7 1 ++ h.extractLsb' 0 3)⟩

/-- Rows of format T5: where the fields of `tBx` and its like stand. -/
def rowT5bx (mask pattern : Half) (mk : Bool → Reg → Instr) : ThumbRow :=
  ⟨mask, pattern, fun h => mk (h.getLsbD 7) (h.extractLsb' 3 4)⟩

/-- Rows of format T6: where the fields of `tLdrPc` and its like stand. -/
def rowT6 (mask pattern : Half) (mk : Reg → BitVec 8 → Instr) : ThumbRow :=
  ⟨mask, pattern, fun h => mk (lowReg h 8) (h.extractLsb' 0 8)⟩

/-- Rows of format T7: where the fields of `tStrReg` and its like stand. -/
def rowT7 (mask pattern : Half) (mk : Reg → Reg → Reg → Instr) : ThumbRow :=
  ⟨mask, pattern, fun h => mk (lowReg h 6) (lowReg h 3) (lowReg h 0)⟩

/-- Rows of format T8: where the fields of `tStrhReg` and its like stand. -/
def rowT8 (mask pattern : Half) (mk : Reg → Reg → Reg → Instr) : ThumbRow :=
  ⟨mask, pattern, fun h => mk (lowReg h 6) (lowReg h 3) (lowReg h 0)⟩

/-- Rows of format T9: where the fields of `tStrImm` and its like stand. -/
def rowT9 (mask pattern : Half) (mk : BitVec 5 → Reg → Reg → Instr) : ThumbRow :=
  ⟨mask, pattern, fun h => mk (h.extractLsb' 6 5) (lowReg h 3) (lowReg h 0)⟩

/-- Rows of format T10: where the fields of `tStrhImm` and its like stand. -/
def rowT10 (mask pattern : Half) (mk : BitVec 5 → Reg → Reg → Instr) : ThumbRow :=
  ⟨mask, pattern, fun h => mk (h.extractLsb' 6 5) (lowReg h 3) (lowReg h 0)⟩

/-- Rows of format T11: where the fields of `tStrSp` and its like stand. -/
def rowT11 (mask pattern : Half) (mk : Reg → BitVec 8 → Instr) : ThumbRow :=
  ⟨mask, pattern, fun h => mk (lowReg h 8) (h.extractLsb' 0 8)⟩

/-- Rows of format T12: where the fields of `tAddPc` and its like stand. -/
def rowT12 (mask pattern : Half) (mk : Reg → BitVec 8 → Instr) : ThumbRow :=
  ⟨mask, pattern, fun h => mk (lowReg h 8) (h.extractLsb' 0 8)⟩

/-- Rows of format T13: where the fields of `tIncSp` and its like stand. -/
def rowT13 (mask pattern : Half) (mk : BitVec 7 → Instr) : ThumbRow :=
  ⟨mask, pattern, fun h => mk (h.extractLsb' 0 7)⟩

/-- Rows of format T14: where the fields of `tPush` and its like stand. -/
def rowT14push (mask pattern : Half) (mk : Bool → BitVec 8 → Instr) : ThumbRow :=
  ⟨mask, pattern, fun h => mk (h.getLsbD 8) (h.extractLsb' 0 8)⟩

/-- Rows of format T14: where the fields of `tPop` and its like stand. -/
def rowT14pop (mask pattern : Half) (mk : Bool → BitVec 8 → Instr) : ThumbRow :=
  ⟨mask, pattern, fun h => mk (h.getLsbD 8) (h.extractLsb' 0 8)⟩

/-- Rows of format T15: where the fields of `tStmia` and its like stand. -/
def rowT15 (mask pattern : Half) (mk : Reg → BitVec 8 → Instr) : ThumbRow :=
  ⟨mask, pattern, fun h => mk (lowReg h 8) (h.extractLsb' 0 8)⟩

/-- Rows of format T16: where the fields of `tBeq` and its like stand. -/
def rowT16 (mask pattern : Half) (mk : BitVec 8 → Instr) : ThumbRow :=
  ⟨mask, pattern, fun h => mk (h.extractLsb' 0 8)⟩

/-- Rows of format T17: where the fields of `tSwi` and its like stand. -/
def rowT17 (mask pattern : Half) (mk : BitVec 8 → Instr) : ThumbRow :=
  ⟨mask, pattern, fun h => mk (h.extractLsb' 0 8)⟩

/-- Rows of format T18: where the fields of `tB` and its like stand. -/
def rowT18 (mask pattern : Half) (mk : BitVec 11 → Instr) : ThumbRow :=
  ⟨mask, pattern, fun h => mk (h.extractLsb' 0 11)⟩

/-- Rows of format T19: where the fields of `tBlHigh` and its like stand. -/
def rowT19 (mask pattern : Half) (mk : BitVec 11 → Instr) : ThumbRow :=
  ⟨mask, pattern, fun h => mk (h.extractLsb' 0 11)⟩

/-- Rows of undefined encodings: where the fields of `tUndefB1` and its like stand. -/
def rowTU (mask pattern : Half) (mk : Instr) : ThumbRow := ⟨mask, pattern, fun _ => mk⟩

/-- AND to RSC. -/
def armRowsLogic : List ArmRow := [
  rowA1 0x0FE00010#32 0x00000000#32 .andShiftImm,
  rowA2 0x0FE00090#32 0x00000010#32 .andShiftReg,
  rowA3 0x0FE00000#32 0x02000000#32 .andImm,
  rowA1 0x0FE00010#32 0x00200000#32 .eorShiftImm,
  rowA2 0x0FE00090#32 0x00200010#32 .eorShiftReg,
  rowA3 0x0FE00000#32 0x02200000#32 .eorImm,
  rowA1 0x0FE00010#32 0x00400000#32 .subShiftImm,
  rowA2 0x0FE00090#32 0x00400010#32 .subShiftReg,
  rowA3 0x0FE00000#32 0x02400000#32 .subImm,
  rowA1 0x0FE00010#32 0x00600000#32 .rsbShiftImm,
  rowA2 0x0FE00090#32 0x00600010#32 .rsbShiftReg,
  rowA3 0x0FE00000#32 0x02600000#32 .rsbImm,
  rowA1 0x0FE00010#32 0x00800000#32 .addShiftImm,
  rowA2 0x0FE00090#32 0x00800010#32 .addShiftReg,
  rowA3 0x0FE00000#32 0x02800000#32 .addImm,
  rowA1 0x0FE00010#32 0x00A00000#32 .adcShiftImm,
  rowA2 0x0FE00090#32 0x00A00010#32 .adcShiftReg,
  rowA3 0x0FE00000#32 0x02A00000#32 .adcImm,
  rowA1 0x0FE00010#32 0x00C00000#32 .sbcShiftImm,
  rowA2 0x0FE00090#32 0x00C00010#32 .sbcShiftReg,
  rowA3 0x0FE00000#32 0x02C00000#32 .sbcImm,
  rowA1 0x0FE00010#32 0x00E00000#32 .rscShiftImm,
  rowA2 0x0FE00090#32 0x00E00010#32 .rscShiftReg,
  rowA3 0x0FE00000#32 0x02E00000#32 .rscImm
]

/-- TST to MVN. -/
def armRowsTest : List ArmRow := [
  rowA1t 0x0FF00010#32 0x01100000#32 .tstShiftImm,
  rowA2t 0x0FF00090#32 0x01100010#32 .tstShiftReg,
  rowA3t 0x0FF00000#32 0x03100000#32 .tstImm,
  rowA1t 0x0FF00010#32 0x01300000#32 .teqShiftImm,
  rowA2t 0x0FF00090#32 0x01300010#32 .teqShiftReg,
  rowA3t 0x0FF00000#32 0x03300000#32 .teqImm,
  rowA1t 0x0FF00010#32 0x01500000#32 .cmpShiftImm,
  rowA2t 0x0FF00090#32 0x01500010#32 .cmpShiftReg,
  rowA3t 0x0FF00000#32 0x03500000#32 .cmpImm,
  rowA1t 0x0FF00010#32 0x01700000#32 .cmnShiftImm,
  rowA2t 0x0FF00090#32 0x01700010#32 .cmnShiftReg,
  rowA3t 0x0FF00000#32 0x03700000#32 .cmnImm,
  rowA1 0x0FE00010#32 0x01800000#32 .orrShiftImm,
  rowA2 0x0FE00090#32 0x01800010#32 .orrShiftReg,
  rowA3 0x0FE00000#32 0x03800000#32 .orrImm,
  rowA1 0x0FE00010#32 0x01A00000#32 .movShiftImm,
  rowA2 0x0FE00090#32 0x01A00010#32 .movShiftReg,
  rowA3 0x0FE00000#32 0x03A00000#32 .movImm,
  rowA1 0x0FE00010#32 0x01C00000#32 .bicShiftImm,
  rowA2 0x0FE00090#32 0x01C00010#32 .bicShiftReg,
  rowA3 0x0FE00000#32 0x03C00000#32 .bicImm,
  rowA1 0x0FE00010#32 0x01E00000#32 .mvnShiftImm,
  rowA2 0x0FE00090#32 0x01E00010#32 .mvnShiftReg,
  rowA3 0x0FE00000#32 0x03E00000#32 .mvnImm
]

/-- Multiplies, swaps, halfword and signed transfers. -/
def armRowsMultiply : List ArmRow := [
  rowA8 0x0FE000F0#32 0x00000090#32 .mul,
  rowA8 0x0FE000F0#32 0x00200090#32 .mla,
  rowA9 0x0FE000F0#32 0x00800090#32 .umull,
  rowA9 0x0FE000F0#32 0x00A00090#32 .umlal,
  rowA9 0x0FE000F0#32 0x00C00090#32 .smull,
  rowA9 0x0FE000F0#32 0x00E00090#32 .smlal,
  rowA10 0x0FF000F0#32 0x01000090#32 .swp,
  rowA10 0x0FF000F0#32 0x01400090#32 .swpb,
  rowA11 0x0E5000F0#32 0x000000B0#32 .strhReg,
  rowA12 0x0E5000F0#32 0x004000B0#32 .strhImm,
  rowA11 0x0E5000F0#32 0x001000B0#32 .ldrhReg,
  rowA12 0x0E5000F0#32 0x005000B0#32 .ldrhImm,
  rowA11 0x0E5000F0#32 0x001000D0#32 .ldrsbReg,
  rowA12 0x0E5000F0#32 0x005000D0#32 .ldrsbImm,
  rowA11 0x0E5000F0#32 0x001000F0#32 .ldrshReg,
  rowA12 0x0E5000F0#32 0x005000F0#32 .ldrshImm
]

/-- MRS, MSR, BX. -/
def armRowsStatus : List ArmRow := [
  rowA4 0x0FB000F0#32 0x01000000#32 .mrs,
  rowA5 0x0FF000F0#32 0x01200000#32 .msrCpsrReg,
  rowA5 0x0FF000F0#32 0x01600000#32 .msrSpsrReg,
  rowA6 0x0FF00000#32 0x03200000#32 .msrCpsrImm,
  rowA6 0x0FF00000#32 0x03600000#32 .msrSpsrImm,
  rowA7 0x0FF000F0#32 0x01200010#32 .bx
]

/-- STR and LDR with their T forms. -/
def armRowsWord : List ArmRow := [
  rowA13pre 0x0F500000#32 0x05000000#32 .strImmPre,
  rowA13post 0x0F700000#32 0x04000000#32 .strImmPost,
  rowA13post 0x0F700000#32 0x04200000#32 .strtImm,
  rowA14pre 0x0F500010#32 0x07000000#32 .strRegPre,
  rowA14post 0x0F700010#32 0x06000000#32 .strRegPost,
  rowA14post 0x0F700010#32 0x06200000#32 .strtReg,
  rowA13pre 0x0F500000#32 0x05100000#32 .ldrImmPre,
  rowA13post 0x0F700000#32 0x04100000#32 .ldrImmPost,
  rowA13post 0x0F700000#32 0x04300000#32 .ldrtImm,
  rowA14pre 0x0F500010#32 0x07100000#32 .ldrRegPre,
  rowA14post 0x0F700010#32 0x06100000#32 .ldrRegPost,
  rowA14post 0x0F700010#32 0x06300000#32 .ldrtReg
]

/-- STRB and LDRB with their T forms. -/
def armRowsByte : List ArmRow := [
  rowA13pre 0x0F500000#32 0x05400000#32 .strbImmPre,
  rowA13post 0x0F700000#32 0x04400000#32 .strbImmPost,
  rowA13post 0x0F700000#32 0x04600000#32 .strbtImm,
  rowA14pre 0x0F500010#32 0x07400000#32 .strbRegPre,
  rowA14post 0x0F700010#32 0x06400000#32 .strbRegPost,
  rowA14post 0x0F700010#32 0x06600000#32 .strbtReg,
  rowA13pre 0x0F500000#32 0x05500000#32 .ldrbImmPre,
  rowA13post 0x0F700000#32 0x04500000#32 .ldrbImmPost,
  rowA13post 0x0F700000#32 0x04700000#32 .ldrbtImm,
  rowA14pre 0x0F500010#32 0x07500000#32 .ldrbRegPre,
  rowA14post 0x0F700010#32 0x06500000#32 .ldrbRegPost,
  rowA14post 0x0F700010#32 0x06700000#32 .ldrbtReg
]

/-- Block transfers, branches, coprocessor, SWI. -/
def armRowsBlock : List ArmRow := [
  rowA15 0x0E100000#32 0x08000000#32 .stm,
  rowA15 0x0E100000#32 0x08100000#32 .ldm,
  rowA16 0x0F000000#32 0x0A000000#32 .b,
  rowA16 0x0F000000#32 0x0B000000#32 .bl,
  rowA17 0x0E100000#32 0x0C000000#32 .stc,
  rowA17 0x0E100000#32 0x0C100000#32 .ldc,
  rowA18 0x0F000010#32 0x0E000000#32 .cdp,
  rowA19 0x0F100010#32 0x0E000010#32 .mcr,
  rowA19 0x0F100010#32 0x0E100010#32 .mrc,
  rowA20 0x0F000000#32 0x0F000000#32 .swi
]

/-- The UNDEFINED encodings (R72). -/
def armRowsUndefined : List ArmRow := [
  rowU 0x0FC000F0#32 0x00400090#32 .undefMulSpace,
  rowU 0x0F8000F0#32 0x01800090#32 .undefSwapBit23,
  rowU 0x0F9000F0#32 0x01100090#32 .undefSwapBit20,
  rowU 0x0FB000F0#32 0x01200090#32 .undefSwapBit21,
  rowU 0x0E1000D0#32 0x000000D0#32 .undefHalfStore,
  rowU 0x0F900090#32 0x01000080#32 .undefTestBit7,
  rowU 0x0F9000D0#32 0x01000040#32 .undefTestLsl01,
  rowU 0x0F9000F0#32 0x01000020#32 .undefTestLo2,
  rowU 0x0F9000D0#32 0x01000050#32 .undefTestBit6Reg,
  rowU 0x0F9000F0#32 0x01000030#32 .undefTestLo3,
  rowU 0x0FB000F0#32 0x01000010#32 .undefMrsLo1,
  rowU 0x0FF000F0#32 0x01600010#32 .undefMsrSpsrLo1,
  rowU 0x0FB00000#32 0x03000000#32 .undefTestImm,
  rowU 0x0E000010#32 0x06000010#32 .undefRegOffsetBit4
]

/-- The ARM rows of the opcode table, in its order. -/
def armRows : List ArmRow :=
  armRowsLogic ++ armRowsTest ++ armRowsMultiply ++ armRowsStatus ++ armRowsWord ++ armRowsByte ++ armRowsBlock ++
    armRowsUndefined

/-- Formats 1 to 4. -/
def thumbRowsAlu : List ThumbRow := [
  rowT1 0xF800#16 0x0000#16 .tLslImm,
  rowT1 0xF800#16 0x0800#16 .tLsrImm,
  rowT1 0xF800#16 0x1000#16 .tAsrImm,
  rowT2r 0xFE00#16 0x1800#16 .tAddReg,
  rowT2r 0xFE00#16 0x1A00#16 .tSubReg,
  rowT2i 0xFE00#16 0x1C00#16 .tAddImm3,
  rowT2i 0xFE00#16 0x1E00#16 .tSubImm3,
  rowT3 0xF800#16 0x2000#16 .tMovImm8,
  rowT3 0xF800#16 0x2800#16 .tCmpImm8,
  rowT3 0xF800#16 0x3000#16 .tAddImm8,
  rowT3 0xF800#16 0x3800#16 .tSubImm8,
  rowT4 0xFFC0#16 0x4000#16 .tAnd,
  rowT4 0xFFC0#16 0x4040#16 .tEor,
  rowT4 0xFFC0#16 0x4080#16 .tLslReg,
  rowT4 0xFFC0#16 0x40C0#16 .tLsrReg,
  rowT4 0xFFC0#16 0x4100#16 .tAsrReg,
  rowT4 0xFFC0#16 0x4140#16 .tAdc,
  rowT4 0xFFC0#16 0x4180#16 .tSbc,
  rowT4 0xFFC0#16 0x41C0#16 .tRor,
  rowT4 0xFFC0#16 0x4200#16 .tTst,
  rowT4 0xFFC0#16 0x4240#16 .tNeg,
  rowT4 0xFFC0#16 0x4280#16 .tCmpReg,
  rowT4 0xFFC0#16 0x42C0#16 .tCmn,
  rowT4 0xFFC0#16 0x4300#16 .tOrr,
  rowT4 0xFFC0#16 0x4340#16 .tMul,
  rowT4 0xFFC0#16 0x4380#16 .tBic,
  rowT4 0xFFC0#16 0x43C0#16 .tMvn
]

/-- Format 5. -/
def thumbRowsHigh : List ThumbRow := [
  rowT5 0xFF00#16 0x4400#16 .tAddHi,
  rowT5 0xFF00#16 0x4500#16 .tCmpHi,
  rowT5 0xFF00#16 0x4600#16 .tMovHi,
  rowT5bx 0xFF00#16 0x4700#16 .tBx
]

/-- Formats 6 to 15. -/
def thumbRowsTransfer : List ThumbRow := [
  rowT6 0xF800#16 0x4800#16 .tLdrPc,
  rowT7 0xFE00#16 0x5000#16 .tStrReg,
  rowT8 0xFE00#16 0x5200#16 .tStrhReg,
  rowT7 0xFE00#16 0x5400#16 .tStrbReg,
  rowT8 0xFE00#16 0x5600#16 .tLdsbReg,
  rowT7 0xFE00#16 0x5800#16 .tLdrReg,
  rowT8 0xFE00#16 0x5A00#16 .tLdrhReg,
  rowT7 0xFE00#16 0x5C00#16 .tLdrbReg,
  rowT8 0xFE00#16 0x5E00#16 .tLdshReg,
  rowT9 0xF800#16 0x6000#16 .tStrImm,
  rowT9 0xF800#16 0x6800#16 .tLdrImm,
  rowT9 0xF800#16 0x7000#16 .tStrbImm,
  rowT9 0xF800#16 0x7800#16 .tLdrbImm,
  rowT10 0xF800#16 0x8000#16 .tStrhImm,
  rowT10 0xF800#16 0x8800#16 .tLdrhImm,
  rowT11 0xF800#16 0x9000#16 .tStrSp,
  rowT11 0xF800#16 0x9800#16 .tLdrSp,
  rowT12 0xF800#16 0xA000#16 .tAddPc,
  rowT12 0xF800#16 0xA800#16 .tAddSp,
  rowT13 0xFF80#16 0xB000#16 .tIncSp,
  rowT13 0xFF80#16 0xB080#16 .tDecSp,
  rowT14push 0xFE00#16 0xB400#16 .tPush,
  rowT14pop 0xFE00#16 0xBC00#16 .tPop,
  rowT15 0xF800#16 0xC000#16 .tStmia,
  rowT15 0xF800#16 0xC800#16 .tLdmia
]

/-- Formats 16 to 19. -/
def thumbRowsBranch : List ThumbRow := [
  rowT16 0xFF00#16 0xD000#16 .tBeq,
  rowT16 0xFF00#16 0xD100#16 .tBne,
  rowT16 0xFF00#16 0xD200#16 .tBcs,
  rowT16 0xFF00#16 0xD300#16 .tBcc,
  rowT16 0xFF00#16 0xD400#16 .tBmi,
  rowT16 0xFF00#16 0xD500#16 .tBpl,
  rowT16 0xFF00#16 0xD600#16 .tBvs,
  rowT16 0xFF00#16 0xD700#16 .tBvc,
  rowT16 0xFF00#16 0xD800#16 .tBhi,
  rowT16 0xFF00#16 0xD900#16 .tBls,
  rowT16 0xFF00#16 0xDA00#16 .tBge,
  rowT16 0xFF00#16 0xDB00#16 .tBlt,
  rowT16 0xFF00#16 0xDC00#16 .tBgt,
  rowT16 0xFF00#16 0xDD00#16 .tBle,
  rowT17 0xFF00#16 0xDF00#16 .tSwi,
  rowT18 0xF800#16 0xE000#16 .tB,
  rowT19 0xF800#16 0xF000#16 .tBlHigh,
  rowT19 0xF800#16 0xF800#16 .tBlLow
]

/-- The UNDEFINED encodings (R73). -/
def thumbRowsUndefined : List ThumbRow := [
  rowTU 0xFF00#16 0xB100#16 .tUndefB1,
  rowTU 0xFE00#16 0xB200#16 .tUndefB2,
  rowTU 0xFE00#16 0xB600#16 .tUndefB6,
  rowTU 0xFC00#16 0xB800#16 .tUndefB8,
  rowTU 0xFE00#16 0xBE00#16 .tUndefBe,
  rowTU 0xFF00#16 0xDE00#16 .tUndefDe,
  rowTU 0xF800#16 0xE800#16 .tUndefE8
]

/-- The Thumb rows of the opcode table, in its order. -/
def thumbRows : List ThumbRow :=
  thumbRowsAlu ++ thumbRowsHigh ++ thumbRowsTransfer ++ thumbRowsBranch ++ thumbRowsUndefined

/-- The ARM decode index: `opcode[27:20] : opcode[7:4]` (R61). -/
def armIndex (w : Word) : BitVec 12 := w.extractLsb' 20 8 ++ w.extractLsb' 4 4

/-- The Thumb decode index: `opcode[15:6]` (R66). -/
def thumbIndex (h : Half) : BitVec 10 := h.extractLsb' 6 10

/-- The index bits at their places in a word, every other bit 0. -/
def armSpread (idx : BitVec 12) : Word := 0#4 ++ idx.extractLsb' 4 8 ++ 0#12 ++ idx.extractLsb' 0 4 ++ 0#4

/-- The index bits at their places in a halfword, every other bit 0. -/
def thumbSpread (idx : BitVec 10) : Half := idx ++ 0#6

/-- The row that stands in an ARM bucket (R61, R64). -/
def armRowOf (idx : BitVec 12) : Option ArmRow :=
  armRows.find? fun r => armSpread idx &&& r.mask == r.pattern

/-- The row that stands in a Thumb bucket (R66, R68). -/
def thumbRowOf (idx : BitVec 10) : Option ThumbRow :=
  thumbRows.find? fun r => thumbSpread idx &&& r.mask == r.pattern

/-- The instruction an ARM word holds. -/
def decodeArm (w : Word) : Option Instr := (armRowOf (armIndex w)).map (·.build w)

/-- The instruction a Thumb halfword holds. -/
def decodeThumb (h : Half) : Option Instr := (thumbRowOf (thumbIndex h)).map (·.build h)

/-- Why bytes are no instruction. -/
inductive DecodeError where
  /-- Fewer bytes than one instruction has. -/
  | truncated
  /-- The bucket holds no row; no bucket is so (Laws/Decode.lean). -/
  | noRow
  deriving DecidableEq, Repr

/-- Two bytes, the lower address first, as a halfword (R42: little-endian). -/
def halfOfBytes (b0 b1 : Byte) : Half := b1 ++ b0

/-- Four bytes, the lowest address first, as a word (R42). -/
def wordOfBytes (b0 b1 b2 b3 : Byte) : Word := b3 ++ b2 ++ b1 ++ b0

/-- The bytes of a halfword, the lower address first (R42). -/
def bytesOfHalf (h : Half) : List Byte := [h.extractLsb' 0 8, h.extractLsb' 8 8]

/-- The bytes of a word, the lowest address first (R42). -/
def bytesOfWord (w : Word) : List Byte :=
  [w.extractLsb' 0 8, w.extractLsb' 8 8, w.extractLsb' 16 8, w.extractLsb' 24 8]

/-- The first instruction of a list of bytes and the bytes after it. The T bit alone tells the length (R60). -/
def decode (thumb : Bool) (bytes : List Byte) : Except DecodeError (Instr × List Byte) :=
  match thumb, bytes with
  | false, b0 :: b1 :: b2 :: b3 :: rest =>
    match decodeArm (wordOfBytes b0 b1 b2 b3) with
    | some i => .ok (i, rest)
    | none => .error .noRow
  | true, b0 :: b1 :: rest =>
    match decodeThumb (halfOfBytes b0 b1) with
    | some i => .ok (i, rest)
    | none => .error .noRow
  | _, _ => .error .truncated

/-- The code of one instruction: an ARM word or a Thumb halfword (R60). -/
inductive Code where
  | arm (w : Word)
  | thumb (h : Half)
  deriving DecidableEq, Repr

/-- The bytes of a code, the lowest address first (R42). -/
def Code.bytes : Code → List Byte
  | .arm w => bytesOfWord w
  | .thumb h => bytesOfHalf h

/-- What a code stands for. -/
def Code.decode : Code → Option Instr
  | .arm w => decodeArm w
  | .thumb h => decodeThumb h

/-! The ARM formats of R63, most significant field first. -/

/-- A1: data processing, register operand, immediate shift. -/
def encA1 (op : BitVec 4) (cond : Cond) (setFlags : Bool) (rn rd : Reg) (shiftImm : BitVec 5) (kind : ShiftKind) (rm : Reg) : Word :=
  cond.bits ++ 0b00#2 ++ 0b0#1 ++ op ++ BitVec.ofBool setFlags ++ rn ++ rd ++ shiftImm ++ kind.bits ++ 0b0#1 ++ rm

/-- A2: data processing, register operand, register shift. -/
def encA2 (op : BitVec 4) (cond : Cond) (setFlags : Bool) (rn rd rs : Reg) (kind : ShiftKind) (rm : Reg) : Word :=
  cond.bits ++ 0b00#2 ++ 0b0#1 ++ op ++ BitVec.ofBool setFlags ++ rn ++ rd ++ rs ++ 0b0#1 ++ kind.bits ++ 0b1#1 ++ rm

/-- A3: data processing, immediate operand. -/
def encA3 (op : BitVec 4) (cond : Cond) (setFlags : Bool) (rn rd : Reg) (rotate : BitVec 4) (imm8 : BitVec 8) : Word :=
  cond.bits ++ 0b00#2 ++ 0b1#1 ++ op ++ BitVec.ofBool setFlags ++ rn ++ rd ++ rotate ++ imm8

/-- A4: MRS. -/
def encA4 (cond : Cond) (spsr : Bool) (rd : Reg) : Word :=
  cond.bits ++ 0b00010#5 ++ BitVec.ofBool spsr ++ 0b00#2 ++ 0b1111#4 ++ rd ++ 0b000000000000#12

/-- A5: MSR, register. -/
def encA5 (spsr : Bool) (cond : Cond) (mask : BitVec 4) (rm : Reg) : Word :=
  cond.bits ++ 0b00010#5 ++ BitVec.ofBool spsr ++ 0b10#2 ++ mask ++ 0b1111#4 ++ 0b00000000#8 ++ rm

/-- A6: MSR, immediate. -/
def encA6 (spsr : Bool) (cond : Cond) (mask rotate : BitVec 4) (imm8 : BitVec 8) : Word :=
  cond.bits ++ 0b00110#5 ++ BitVec.ofBool spsr ++ 0b10#2 ++ mask ++ 0b1111#4 ++ rotate ++ imm8

/-- A7: BX. -/
def encA7 (cond : Cond) (rm : Reg) : Word :=
  cond.bits ++ 0b00010010#8 ++ 0b111111111111#12 ++ 0b0001#4 ++ rm

/-- A8: multiply; `acc` is the bit A. -/
def encA8 (acc : Bool) (cond : Cond) (setFlags : Bool) (rd rn rs rm : Reg) : Word :=
  cond.bits ++ 0b000000#6 ++ BitVec.ofBool acc ++ BitVec.ofBool setFlags ++ rd ++ rn ++ rs ++ 0b1001#4 ++ rm

/-- A9: multiply long; `signed` is the bit U (0 unsigned, 1 signed), `acc` the bit A. -/
def encA9 (signed acc : Bool) (cond : Cond) (setFlags : Bool) (rdHi rdLo rs rm : Reg) : Word :=
  cond.bits ++ 0b00001#5 ++ BitVec.ofBool signed ++ BitVec.ofBool acc ++ BitVec.ofBool setFlags ++ rdHi ++ rdLo ++ rs ++
    0b1001#4 ++ rm

/-- A10: swap; `byte` is the bit B. -/
def encA10 (byte : Bool) (cond : Cond) (rn rd rm : Reg) : Word :=
  cond.bits ++ 0b00010#5 ++ BitVec.ofBool byte ++ 0b00#2 ++ rn ++ rd ++ 0b0000#4 ++ 0b1001#4 ++ rm

/-- A11: halfword and signed transfer, register offset; `load`, `signed`, `half` are the bits L, S, H. -/
def encA11 (load signed half : Bool) (cond : Cond) (p u w : Bool) (rn rd rm : Reg) : Word :=
  cond.bits ++ 0b000#3 ++ BitVec.ofBool p ++ BitVec.ofBool u ++ 0b0#1 ++ BitVec.ofBool w ++ BitVec.ofBool load ++ rn ++ rd ++
    0b0000#4 ++ 0b1#1 ++ BitVec.ofBool signed ++ BitVec.ofBool half ++ 0b1#1 ++ rm

/-- A12: halfword and signed transfer, immediate offset. -/
def encA12 (load signed half : Bool) (cond : Cond) (p u w : Bool) (rn rd : Reg) (immH immL : BitVec 4) : Word :=
  cond.bits ++ 0b000#3 ++ BitVec.ofBool p ++ BitVec.ofBool u ++ 0b1#1 ++ BitVec.ofBool w ++ BitVec.ofBool load ++ rn ++ rd ++
    immH ++ 0b1#1 ++ BitVec.ofBool signed ++ BitVec.ofBool half ++ 0b1#1 ++ immL

/-- A13: single data transfer, immediate offset; `byte`, `load` are the bits B, L. -/
def encA13 (byte load : Bool) (cond : Cond) (p u w : Bool) (rn rd : Reg) (imm12 : BitVec 12) : Word :=
  cond.bits ++ 0b01#2 ++ 0b0#1 ++ BitVec.ofBool p ++ BitVec.ofBool u ++ BitVec.ofBool byte ++ BitVec.ofBool w ++
    BitVec.ofBool load ++ rn ++ rd ++ imm12

/-- A14: single data transfer, register offset. -/
def encA14 (byte load : Bool) (cond : Cond) (p u w : Bool) (rn rd : Reg) (shiftImm : BitVec 5) (kind : ShiftKind) (rm : Reg) : Word :=
  cond.bits ++ 0b01#2 ++ 0b1#1 ++ BitVec.ofBool p ++ BitVec.ofBool u ++ BitVec.ofBool byte ++ BitVec.ofBool w ++
    BitVec.ofBool load ++ rn ++ rd ++ shiftImm ++ kind.bits ++ 0b0#1 ++ rm

/-- A15: block data transfer. -/
def encA15 (load : Bool) (cond : Cond) (p u sBit w : Bool) (rn : Reg) (list : BitVec 16) : Word :=
  cond.bits ++ 0b100#3 ++ BitVec.ofBool p ++ BitVec.ofBool u ++ BitVec.ofBool sBit ++ BitVec.ofBool w ++ BitVec.ofBool load ++
    rn ++ list

/-- A16: branch; `link` is the bit L. -/
def encA16 (link : Bool) (cond : Cond) (imm24 : BitVec 24) : Word :=
  cond.bits ++ 0b101#3 ++ BitVec.ofBool link ++ imm24

/-- A17: coprocessor data transfer. -/
def encA17 (load : Bool) (cond : Cond) (p u n w : Bool) (rn : Reg) (crd cp : BitVec 4) (imm8 : BitVec 8) : Word :=
  cond.bits ++ 0b110#3 ++ BitVec.ofBool p ++ BitVec.ofBool u ++ BitVec.ofBool n ++ BitVec.ofBool w ++ BitVec.ofBool load ++
    rn ++ crd ++ cp ++ imm8

/-- A18: coprocessor data operation. -/
def encA18 (cond : Cond) (opc1 crn crd cp : BitVec 4) (opc2 : BitVec 3) (crm : BitVec 4) : Word :=
  cond.bits ++ 0b1110#4 ++ opc1 ++ crn ++ crd ++ cp ++ opc2 ++ 0b0#1 ++ crm

/-- A19: coprocessor register transfer; `load` is the bit L (0 MCR, 1 MRC). -/
def encA19 (load : Bool) (cond : Cond) (opc1 : BitVec 3) (crn : BitVec 4) (rd : Reg) (cp : BitVec 4) (opc2 : BitVec 3)
    (crm : BitVec 4) : Word :=
  cond.bits ++ 0b1110#4 ++ opc1 ++ BitVec.ofBool load ++ crn ++ rd ++ cp ++ opc2 ++ 0b1#1 ++ crm

/-- A20: software interrupt. -/
def encA20 (cond : Cond) (comment : BitVec 24) : Word := cond.bits ++ 0b1111#4 ++ comment

/-- An UNDEFINED word: its fixed bits as R64 gives them, every free bit 0. -/
def encUndef (low : BitVec 28) (cond : Cond) : Word := cond.bits ++ low

/-! The Thumb formats of R67, most significant field first. -/

/-- The 3-bit field of a low register. -/
def reg3 (r : Reg) : BitVec 3 := r.extractLsb' 0 3

/-- Format 1: move shifted register. -/
def encT1 (op : BitVec 2) (offset5 : BitVec 5) (rs rd : Reg) : Half := 0b000#3 ++ op ++ offset5 ++ reg3 rs ++ reg3 rd

/-- Format 2: add and subtract; `imm` and `sub` are the bits I and op. -/
def encT2 (imm sub : Bool) (field : BitVec 3) (rs rd : Reg) : Half :=
  0b00011#5 ++ BitVec.ofBool imm ++ BitVec.ofBool sub ++ field ++ reg3 rs ++ reg3 rd

/-- Format 3: move, compare, add, subtract immediate. -/
def encT3 (op : BitVec 2) (rd : Reg) (imm8 : BitVec 8) : Half := 0b001#3 ++ op ++ reg3 rd ++ imm8

/-- Format 4: ALU operations. -/
def encT4 (op : BitVec 4) (rs rd : Reg) : Half := 0b010000#6 ++ op ++ reg3 rs ++ reg3 rd

/-- Format 5: high-register operations; the register numbers are `H1:Rd` and `H2:Rs`. -/
def encT5 (op : BitVec 2) (src dst : Reg) : Half :=
  0b010001#6 ++ op ++ dst.extractLsb' 3 1 ++ src.extractLsb' 3 1 ++ src.extractLsb' 0 3 ++ dst.extractLsb' 0 3

/-- Format 5, BX: Rd should be zero. -/
def encT5Bx (h1 : Bool) (src : Reg) : Half :=
  0b010001#6 ++ 0b11#2 ++ BitVec.ofBool h1 ++ src.extractLsb' 3 1 ++ src.extractLsb' 0 3 ++ 0b000#3

/-- Format 6: PC-relative load. -/
def encT6 (rd : Reg) (imm8 : BitVec 8) : Half := 0b01001#5 ++ reg3 rd ++ imm8

/-- Format 7: load and store with register offset; `load`, `byte` are the bits L, B. -/
def encT7 (load byte : Bool) (ro rb rd : Reg) : Half :=
  0b0101#4 ++ BitVec.ofBool load ++ BitVec.ofBool byte ++ 0b0#1 ++ reg3 ro ++ reg3 rb ++ reg3 rd

/-- Format 8: sign-extended byte and halfword; `half`, `signed` are the bits H, S. -/
def encT8 (half signed : Bool) (ro rb rd : Reg) : Half :=
  0b0101#4 ++ BitVec.ofBool half ++ BitVec.ofBool signed ++ 0b1#1 ++ reg3 ro ++ reg3 rb ++ reg3 rd

/-- Format 9: load and store with immediate offset; `byte`, `load` are the bits B, L. -/
def encT9 (byte load : Bool) (offset5 : BitVec 5) (rb rd : Reg) : Half :=
  0b011#3 ++ BitVec.ofBool byte ++ BitVec.ofBool load ++ offset5 ++ reg3 rb ++ reg3 rd

/-- Format 10: load and store halfword. -/
def encT10 (load : Bool) (offset5 : BitVec 5) (rb rd : Reg) : Half :=
  0b1000#4 ++ BitVec.ofBool load ++ offset5 ++ reg3 rb ++ reg3 rd

/-- Format 11: SP-relative load and store. -/
def encT11 (load : Bool) (rd : Reg) (imm8 : BitVec 8) : Half := 0b1001#4 ++ BitVec.ofBool load ++ reg3 rd ++ imm8

/-- Format 12: load address; `sp` is the bit SP (0 PC, 1 SP). -/
def encT12 (sp : Bool) (rd : Reg) (imm8 : BitVec 8) : Half := 0b1010#4 ++ BitVec.ofBool sp ++ reg3 rd ++ imm8

/-- Format 13: add offset to stack pointer; `sub` is the bit S. -/
def encT13 (sub : Bool) (imm7 : BitVec 7) : Half := 0b10110000#8 ++ BitVec.ofBool sub ++ imm7

/-- Format 14: push and pop; `load` is the bit L, `r` the bit R. -/
def encT14 (load r : Bool) (list : BitVec 8) : Half :=
  0b1011#4 ++ BitVec.ofBool load ++ 0b10#2 ++ BitVec.ofBool r ++ list

/-- Format 15: multiple load and store. -/
def encT15 (load : Bool) (rb : Reg) (list : BitVec 8) : Half := 0b1100#4 ++ BitVec.ofBool load ++ reg3 rb ++ list

/-- Format 16: conditional branch. -/
def encT16 (cond : BitVec 4) (soffset8 : BitVec 8) : Half := 0b1101#4 ++ cond ++ soffset8

/-- Format 17: software interrupt. -/
def encT17 (comment : BitVec 8) : Half := 0b11011111#8 ++ comment

/-- Format 18: unconditional branch. -/
def encT18 (offset11 : BitVec 11) : Half := 0b11100#5 ++ offset11

/-- Format 19: long branch with link; `low` is the bit H (1 second half). -/
def encT19 (low : Bool) (offset11 : BitVec 11) : Half := 0b1111#4 ++ BitVec.ofBool low ++ offset11

/-- The code of an instruction (R63, R67). -/
def encode : Instr → Code
  | .andShiftImm cond setFlags rn rd shiftImm kind rm => .arm (encA1 0b0000#4 cond setFlags rn rd shiftImm kind rm)
  | .andShiftReg cond setFlags rn rd rs kind rm => .arm (encA2 0b0000#4 cond setFlags rn rd rs kind rm)
  | .andImm cond setFlags rn rd rotate imm8 => .arm (encA3 0b0000#4 cond setFlags rn rd rotate imm8)
  | .eorShiftImm cond setFlags rn rd shiftImm kind rm => .arm (encA1 0b0001#4 cond setFlags rn rd shiftImm kind rm)
  | .eorShiftReg cond setFlags rn rd rs kind rm => .arm (encA2 0b0001#4 cond setFlags rn rd rs kind rm)
  | .eorImm cond setFlags rn rd rotate imm8 => .arm (encA3 0b0001#4 cond setFlags rn rd rotate imm8)
  | .subShiftImm cond setFlags rn rd shiftImm kind rm => .arm (encA1 0b0010#4 cond setFlags rn rd shiftImm kind rm)
  | .subShiftReg cond setFlags rn rd rs kind rm => .arm (encA2 0b0010#4 cond setFlags rn rd rs kind rm)
  | .subImm cond setFlags rn rd rotate imm8 => .arm (encA3 0b0010#4 cond setFlags rn rd rotate imm8)
  | .rsbShiftImm cond setFlags rn rd shiftImm kind rm => .arm (encA1 0b0011#4 cond setFlags rn rd shiftImm kind rm)
  | .rsbShiftReg cond setFlags rn rd rs kind rm => .arm (encA2 0b0011#4 cond setFlags rn rd rs kind rm)
  | .rsbImm cond setFlags rn rd rotate imm8 => .arm (encA3 0b0011#4 cond setFlags rn rd rotate imm8)
  | .addShiftImm cond setFlags rn rd shiftImm kind rm => .arm (encA1 0b0100#4 cond setFlags rn rd shiftImm kind rm)
  | .addShiftReg cond setFlags rn rd rs kind rm => .arm (encA2 0b0100#4 cond setFlags rn rd rs kind rm)
  | .addImm cond setFlags rn rd rotate imm8 => .arm (encA3 0b0100#4 cond setFlags rn rd rotate imm8)
  | .adcShiftImm cond setFlags rn rd shiftImm kind rm => .arm (encA1 0b0101#4 cond setFlags rn rd shiftImm kind rm)
  | .adcShiftReg cond setFlags rn rd rs kind rm => .arm (encA2 0b0101#4 cond setFlags rn rd rs kind rm)
  | .adcImm cond setFlags rn rd rotate imm8 => .arm (encA3 0b0101#4 cond setFlags rn rd rotate imm8)
  | .sbcShiftImm cond setFlags rn rd shiftImm kind rm => .arm (encA1 0b0110#4 cond setFlags rn rd shiftImm kind rm)
  | .sbcShiftReg cond setFlags rn rd rs kind rm => .arm (encA2 0b0110#4 cond setFlags rn rd rs kind rm)
  | .sbcImm cond setFlags rn rd rotate imm8 => .arm (encA3 0b0110#4 cond setFlags rn rd rotate imm8)
  | .rscShiftImm cond setFlags rn rd shiftImm kind rm => .arm (encA1 0b0111#4 cond setFlags rn rd shiftImm kind rm)
  | .rscShiftReg cond setFlags rn rd rs kind rm => .arm (encA2 0b0111#4 cond setFlags rn rd rs kind rm)
  | .rscImm cond setFlags rn rd rotate imm8 => .arm (encA3 0b0111#4 cond setFlags rn rd rotate imm8)
  | .tstShiftImm cond rn rd shiftImm kind rm => .arm (encA1 0b1000#4 cond true rn rd shiftImm kind rm)
  | .tstShiftReg cond rn rd rs kind rm => .arm (encA2 0b1000#4 cond true rn rd rs kind rm)
  | .tstImm cond rn rd rotate imm8 => .arm (encA3 0b1000#4 cond true rn rd rotate imm8)
  | .teqShiftImm cond rn rd shiftImm kind rm => .arm (encA1 0b1001#4 cond true rn rd shiftImm kind rm)
  | .teqShiftReg cond rn rd rs kind rm => .arm (encA2 0b1001#4 cond true rn rd rs kind rm)
  | .teqImm cond rn rd rotate imm8 => .arm (encA3 0b1001#4 cond true rn rd rotate imm8)
  | .cmpShiftImm cond rn rd shiftImm kind rm => .arm (encA1 0b1010#4 cond true rn rd shiftImm kind rm)
  | .cmpShiftReg cond rn rd rs kind rm => .arm (encA2 0b1010#4 cond true rn rd rs kind rm)
  | .cmpImm cond rn rd rotate imm8 => .arm (encA3 0b1010#4 cond true rn rd rotate imm8)
  | .cmnShiftImm cond rn rd shiftImm kind rm => .arm (encA1 0b1011#4 cond true rn rd shiftImm kind rm)
  | .cmnShiftReg cond rn rd rs kind rm => .arm (encA2 0b1011#4 cond true rn rd rs kind rm)
  | .cmnImm cond rn rd rotate imm8 => .arm (encA3 0b1011#4 cond true rn rd rotate imm8)
  | .orrShiftImm cond setFlags rn rd shiftImm kind rm => .arm (encA1 0b1100#4 cond setFlags rn rd shiftImm kind rm)
  | .orrShiftReg cond setFlags rn rd rs kind rm => .arm (encA2 0b1100#4 cond setFlags rn rd rs kind rm)
  | .orrImm cond setFlags rn rd rotate imm8 => .arm (encA3 0b1100#4 cond setFlags rn rd rotate imm8)
  | .movShiftImm cond setFlags rn rd shiftImm kind rm => .arm (encA1 0b1101#4 cond setFlags rn rd shiftImm kind rm)
  | .movShiftReg cond setFlags rn rd rs kind rm => .arm (encA2 0b1101#4 cond setFlags rn rd rs kind rm)
  | .movImm cond setFlags rn rd rotate imm8 => .arm (encA3 0b1101#4 cond setFlags rn rd rotate imm8)
  | .bicShiftImm cond setFlags rn rd shiftImm kind rm => .arm (encA1 0b1110#4 cond setFlags rn rd shiftImm kind rm)
  | .bicShiftReg cond setFlags rn rd rs kind rm => .arm (encA2 0b1110#4 cond setFlags rn rd rs kind rm)
  | .bicImm cond setFlags rn rd rotate imm8 => .arm (encA3 0b1110#4 cond setFlags rn rd rotate imm8)
  | .mvnShiftImm cond setFlags rn rd shiftImm kind rm => .arm (encA1 0b1111#4 cond setFlags rn rd shiftImm kind rm)
  | .mvnShiftReg cond setFlags rn rd rs kind rm => .arm (encA2 0b1111#4 cond setFlags rn rd rs kind rm)
  | .mvnImm cond setFlags rn rd rotate imm8 => .arm (encA3 0b1111#4 cond setFlags rn rd rotate imm8)
  | .mul cond setFlags rd rn rs rm => .arm (encA8 false cond setFlags rd rn rs rm)
  | .mla cond setFlags rd rn rs rm => .arm (encA8 true cond setFlags rd rn rs rm)
  | .umull cond setFlags rdHi rdLo rs rm => .arm (encA9 false false cond setFlags rdHi rdLo rs rm)
  | .umlal cond setFlags rdHi rdLo rs rm => .arm (encA9 false true cond setFlags rdHi rdLo rs rm)
  | .smull cond setFlags rdHi rdLo rs rm => .arm (encA9 true false cond setFlags rdHi rdLo rs rm)
  | .smlal cond setFlags rdHi rdLo rs rm => .arm (encA9 true true cond setFlags rdHi rdLo rs rm)
  | .swp cond rn rd rm => .arm (encA10 false cond rn rd rm)
  | .swpb cond rn rd rm => .arm (encA10 true cond rn rd rm)
  | .strhReg cond p u w rn rd rm => .arm (encA11 false false true cond p u w rn rd rm)
  | .strhImm cond p u w rn rd immH immL => .arm (encA12 false false true cond p u w rn rd immH immL)
  | .ldrhReg cond p u w rn rd rm => .arm (encA11 true false true cond p u w rn rd rm)
  | .ldrhImm cond p u w rn rd immH immL => .arm (encA12 true false true cond p u w rn rd immH immL)
  | .ldrsbReg cond p u w rn rd rm => .arm (encA11 true true false cond p u w rn rd rm)
  | .ldrsbImm cond p u w rn rd immH immL => .arm (encA12 true true false cond p u w rn rd immH immL)
  | .ldrshReg cond p u w rn rd rm => .arm (encA11 true true true cond p u w rn rd rm)
  | .ldrshImm cond p u w rn rd immH immL => .arm (encA12 true true true cond p u w rn rd immH immL)
  | .mrs cond spsr rd => .arm (encA4 cond spsr rd)
  | .msrCpsrReg cond mask rm => .arm (encA5 false cond mask rm)
  | .msrSpsrReg cond mask rm => .arm (encA5 true cond mask rm)
  | .msrCpsrImm cond mask rotate imm8 => .arm (encA6 false cond mask rotate imm8)
  | .msrSpsrImm cond mask rotate imm8 => .arm (encA6 true cond mask rotate imm8)
  | .bx cond rm => .arm (encA7 cond rm)
  | .strImmPre cond u w rn rd imm12 => .arm (encA13 false false cond true u w rn rd imm12)
  | .strImmPost cond u rn rd imm12 => .arm (encA13 false false cond false u false rn rd imm12)
  | .strtImm cond u rn rd imm12 => .arm (encA13 false false cond false u true rn rd imm12)
  | .strRegPre cond u w rn rd shiftImm kind rm => .arm (encA14 false false cond true u w rn rd shiftImm kind rm)
  | .strRegPost cond u rn rd shiftImm kind rm => .arm (encA14 false false cond false u false rn rd shiftImm kind rm)
  | .strtReg cond u rn rd shiftImm kind rm => .arm (encA14 false false cond false u true rn rd shiftImm kind rm)
  | .ldrImmPre cond u w rn rd imm12 => .arm (encA13 false true cond true u w rn rd imm12)
  | .ldrImmPost cond u rn rd imm12 => .arm (encA13 false true cond false u false rn rd imm12)
  | .ldrtImm cond u rn rd imm12 => .arm (encA13 false true cond false u true rn rd imm12)
  | .ldrRegPre cond u w rn rd shiftImm kind rm => .arm (encA14 false true cond true u w rn rd shiftImm kind rm)
  | .ldrRegPost cond u rn rd shiftImm kind rm => .arm (encA14 false true cond false u false rn rd shiftImm kind rm)
  | .ldrtReg cond u rn rd shiftImm kind rm => .arm (encA14 false true cond false u true rn rd shiftImm kind rm)
  | .strbImmPre cond u w rn rd imm12 => .arm (encA13 true false cond true u w rn rd imm12)
  | .strbImmPost cond u rn rd imm12 => .arm (encA13 true false cond false u false rn rd imm12)
  | .strbtImm cond u rn rd imm12 => .arm (encA13 true false cond false u true rn rd imm12)
  | .strbRegPre cond u w rn rd shiftImm kind rm => .arm (encA14 true false cond true u w rn rd shiftImm kind rm)
  | .strbRegPost cond u rn rd shiftImm kind rm => .arm (encA14 true false cond false u false rn rd shiftImm kind rm)
  | .strbtReg cond u rn rd shiftImm kind rm => .arm (encA14 true false cond false u true rn rd shiftImm kind rm)
  | .ldrbImmPre cond u w rn rd imm12 => .arm (encA13 true true cond true u w rn rd imm12)
  | .ldrbImmPost cond u rn rd imm12 => .arm (encA13 true true cond false u false rn rd imm12)
  | .ldrbtImm cond u rn rd imm12 => .arm (encA13 true true cond false u true rn rd imm12)
  | .ldrbRegPre cond u w rn rd shiftImm kind rm => .arm (encA14 true true cond true u w rn rd shiftImm kind rm)
  | .ldrbRegPost cond u rn rd shiftImm kind rm => .arm (encA14 true true cond false u false rn rd shiftImm kind rm)
  | .ldrbtReg cond u rn rd shiftImm kind rm => .arm (encA14 true true cond false u true rn rd shiftImm kind rm)
  | .stm cond p u sBit w rn list => .arm (encA15 false cond p u sBit w rn list)
  | .ldm cond p u sBit w rn list => .arm (encA15 true cond p u sBit w rn list)
  | .b cond imm24 => .arm (encA16 false cond imm24)
  | .bl cond imm24 => .arm (encA16 true cond imm24)
  | .stc cond p u n w rn crd cp imm8 => .arm (encA17 false cond p u n w rn crd cp imm8)
  | .ldc cond p u n w rn crd cp imm8 => .arm (encA17 true cond p u n w rn crd cp imm8)
  | .cdp cond opc1 crn crd cp opc2 crm => .arm (encA18 cond opc1 crn crd cp opc2 crm)
  | .mcr cond opc1 crn rd cp opc2 crm => .arm (encA19 false cond opc1 crn rd cp opc2 crm)
  | .mrc cond opc1 crn rd cp opc2 crm => .arm (encA19 true cond opc1 crn rd cp opc2 crm)
  | .swi cond comment => .arm (encA20 cond comment)
  | .undefMulSpace cond => .arm (encUndef 0x0400090#28 cond)
  | .undefSwapBit23 cond => .arm (encUndef 0x1800090#28 cond)
  | .undefSwapBit20 cond => .arm (encUndef 0x1100090#28 cond)
  | .undefSwapBit21 cond => .arm (encUndef 0x1200090#28 cond)
  | .undefHalfStore cond => .arm (encUndef 0x00000D0#28 cond)
  | .undefTestBit7 cond => .arm (encUndef 0x1000080#28 cond)
  | .undefTestLsl01 cond => .arm (encUndef 0x1000040#28 cond)
  | .undefTestLo2 cond => .arm (encUndef 0x1000020#28 cond)
  | .undefTestBit6Reg cond => .arm (encUndef 0x1000050#28 cond)
  | .undefTestLo3 cond => .arm (encUndef 0x1000030#28 cond)
  | .undefMrsLo1 cond => .arm (encUndef 0x1000010#28 cond)
  | .undefMsrSpsrLo1 cond => .arm (encUndef 0x1600010#28 cond)
  | .undefTestImm cond => .arm (encUndef 0x3000000#28 cond)
  | .undefRegOffsetBit4 cond => .arm (encUndef 0x6000010#28 cond)
  | .tLslImm offset5 rs rd => .thumb (encT1 0b00#2 offset5 rs rd)
  | .tLsrImm offset5 rs rd => .thumb (encT1 0b01#2 offset5 rs rd)
  | .tAsrImm offset5 rs rd => .thumb (encT1 0b10#2 offset5 rs rd)
  | .tAddReg rn rs rd => .thumb (encT2 false false (reg3 rn) rs rd)
  | .tSubReg rn rs rd => .thumb (encT2 false true (reg3 rn) rs rd)
  | .tAddImm3 imm3 rs rd => .thumb (encT2 true false imm3 rs rd)
  | .tSubImm3 imm3 rs rd => .thumb (encT2 true true imm3 rs rd)
  | .tMovImm8 rd imm8 => .thumb (encT3 0b00#2 rd imm8)
  | .tCmpImm8 rd imm8 => .thumb (encT3 0b01#2 rd imm8)
  | .tAddImm8 rd imm8 => .thumb (encT3 0b10#2 rd imm8)
  | .tSubImm8 rd imm8 => .thumb (encT3 0b11#2 rd imm8)
  | .tAnd rs rd => .thumb (encT4 0b0000#4 rs rd)
  | .tEor rs rd => .thumb (encT4 0b0001#4 rs rd)
  | .tLslReg rs rd => .thumb (encT4 0b0010#4 rs rd)
  | .tLsrReg rs rd => .thumb (encT4 0b0011#4 rs rd)
  | .tAsrReg rs rd => .thumb (encT4 0b0100#4 rs rd)
  | .tAdc rs rd => .thumb (encT4 0b0101#4 rs rd)
  | .tSbc rs rd => .thumb (encT4 0b0110#4 rs rd)
  | .tRor rs rd => .thumb (encT4 0b0111#4 rs rd)
  | .tTst rs rd => .thumb (encT4 0b1000#4 rs rd)
  | .tNeg rs rd => .thumb (encT4 0b1001#4 rs rd)
  | .tCmpReg rs rd => .thumb (encT4 0b1010#4 rs rd)
  | .tCmn rs rd => .thumb (encT4 0b1011#4 rs rd)
  | .tOrr rs rd => .thumb (encT4 0b1100#4 rs rd)
  | .tMul rs rd => .thumb (encT4 0b1101#4 rs rd)
  | .tBic rs rd => .thumb (encT4 0b1110#4 rs rd)
  | .tMvn rs rd => .thumb (encT4 0b1111#4 rs rd)
  | .tAddHi src dst => .thumb (encT5 0b00#2 src dst)
  | .tCmpHi src dst => .thumb (encT5 0b01#2 src dst)
  | .tMovHi src dst => .thumb (encT5 0b10#2 src dst)
  | .tBx h1 src => .thumb (encT5Bx h1 src)
  | .tLdrPc rd imm8 => .thumb (encT6 rd imm8)
  | .tStrReg ro rb rd => .thumb (encT7 false false ro rb rd)
  | .tStrhReg ro rb rd => .thumb (encT8 false false ro rb rd)
  | .tStrbReg ro rb rd => .thumb (encT7 false true ro rb rd)
  | .tLdsbReg ro rb rd => .thumb (encT8 false true ro rb rd)
  | .tLdrReg ro rb rd => .thumb (encT7 true false ro rb rd)
  | .tLdrhReg ro rb rd => .thumb (encT8 true false ro rb rd)
  | .tLdrbReg ro rb rd => .thumb (encT7 true true ro rb rd)
  | .tLdshReg ro rb rd => .thumb (encT8 true true ro rb rd)
  | .tStrImm offset5 rb rd => .thumb (encT9 false false offset5 rb rd)
  | .tLdrImm offset5 rb rd => .thumb (encT9 false true offset5 rb rd)
  | .tStrbImm offset5 rb rd => .thumb (encT9 true false offset5 rb rd)
  | .tLdrbImm offset5 rb rd => .thumb (encT9 true true offset5 rb rd)
  | .tStrhImm offset5 rb rd => .thumb (encT10 false offset5 rb rd)
  | .tLdrhImm offset5 rb rd => .thumb (encT10 true offset5 rb rd)
  | .tStrSp rd imm8 => .thumb (encT11 false rd imm8)
  | .tLdrSp rd imm8 => .thumb (encT11 true rd imm8)
  | .tAddPc rd imm8 => .thumb (encT12 false rd imm8)
  | .tAddSp rd imm8 => .thumb (encT12 true rd imm8)
  | .tIncSp imm7 => .thumb (encT13 false imm7)
  | .tDecSp imm7 => .thumb (encT13 true imm7)
  | .tPush lr list => .thumb (encT14 false lr list)
  | .tPop pc list => .thumb (encT14 true pc list)
  | .tStmia rb list => .thumb (encT15 false rb list)
  | .tLdmia rb list => .thumb (encT15 true rb list)
  | .tBeq soffset8 => .thumb (encT16 0b0000#4 soffset8)
  | .tBne soffset8 => .thumb (encT16 0b0001#4 soffset8)
  | .tBcs soffset8 => .thumb (encT16 0b0010#4 soffset8)
  | .tBcc soffset8 => .thumb (encT16 0b0011#4 soffset8)
  | .tBmi soffset8 => .thumb (encT16 0b0100#4 soffset8)
  | .tBpl soffset8 => .thumb (encT16 0b0101#4 soffset8)
  | .tBvs soffset8 => .thumb (encT16 0b0110#4 soffset8)
  | .tBvc soffset8 => .thumb (encT16 0b0111#4 soffset8)
  | .tBhi soffset8 => .thumb (encT16 0b1000#4 soffset8)
  | .tBls soffset8 => .thumb (encT16 0b1001#4 soffset8)
  | .tBge soffset8 => .thumb (encT16 0b1010#4 soffset8)
  | .tBlt soffset8 => .thumb (encT16 0b1011#4 soffset8)
  | .tBgt soffset8 => .thumb (encT16 0b1100#4 soffset8)
  | .tBle soffset8 => .thumb (encT16 0b1101#4 soffset8)
  | .tSwi comment => .thumb (encT17 comment)
  | .tB offset11 => .thumb (encT18 offset11)
  | .tBlHigh offset11 => .thumb (encT19 false offset11)
  | .tBlLow offset11 => .thumb (encT19 true offset11)
  | .tUndefB1 => .thumb 0xB100#16
  | .tUndefB2 => .thumb 0xB200#16
  | .tUndefB6 => .thumb 0xB600#16
  | .tUndefB8 => .thumb 0xB800#16
  | .tUndefBe => .thumb 0xBE00#16
  | .tUndefDe => .thumb 0xDE00#16
  | .tUndefE8 => .thumb 0xE800#16

/-- The instruction the decoder reads from an opcode-table word: bit 0 of `w` is the least significant bit of the
instruction, a row of at most 16 bits is a Thumb halfword, a longer one an ARM word (R60). -/
def decodeTableWord (nbits w : Nat) : Option Instr :=
  let thumb := decide (nbits ≤ 16)
  let code := if thumb then Code.thumb (BitVec.ofNat 16 w) else Code.arm (BitVec.ofNat 32 w)
  match decode thumb code.bytes with
  | .ok (i, _) => some i
  | .error _ => none

end Sys2Proof
end

