-- ==== Sys2Proof/Config.lean ====
section
/-! DEFINITION. What an implementation fixes: the parameters of spec/00_scope.md R4 that the spec leaves OPEN, as one
record of plain data that `State` carries unchanged (notes/assumptions/2.md), and the constants the spec settles. -/

namespace Sys2Proof.Config

/-- The two values allowed for `PC_REGSHIFT_OFFSET` and `PC_STORE_OFFSET` (R4, R88; 92 D7, D8). -/
inductive PcOffset where
  | eight
  | twelve
  deriving DecidableEq, Repr

/-- The offset as a word. -/
def PcOffset.word : PcOffset → Word
  | .eight => 8#32
  | .twelve => 12#32

/-- `UNDEFINED_POLICY` (R4, R203, R204; 92 D10). -/
inductive UndefinedPolicy where
  | nop
  | fault
  deriving DecidableEq, Repr

/-- `MSR_USER_CONTROL` (R4, R196; 92 D12). -/
inductive MsrUserControl where
  | blocked
  | allButT
  deriving DecidableEq, Repr

/-- `EMPTY_RLIST` (R4, R182; 92 D13). -/
inductive EmptyRlist where
  | all16
  | r15Only
  deriving DecidableEq, Repr

/-- `MISALIGNED_HALFWORD` (R4, R45; 92 D15). -/
inductive MisalignedHalfword where
  | arm7tdmi
  | refuse
  deriving DecidableEq, Repr

/-- The numbers of `ExtraCycles` by the table of R343, one field per row whose default is not the constant 0 that the source
states; the multiplies' fields are what their rows add to `m`. DESIGN CHOICE (notes/assumptions/23.md): that an instruction
without a `CycleCase` takes the number of its row, one for every instruction of the row, is the model's; `Params.cycleCases`
gives any other function. -/
structure Cycles where
  /-- Added for a register-specified shift amount (ARM format A2; Thumb format 4 LSL, LSR, ASR, ROR). -/
  regShift : Nat
  /-- Added when a data-processing operation writes `pc`. -/
  pcWrite : Nat
  /-- MRS and MSR. -/
  status : Nat
  /-- Added to `m` by MUL and Thumb MUL. -/
  mul : Nat
  /-- Added to `m` by MLA. -/
  mla : Nat
  /-- Added to `m` by UMULL and SMULL. -/
  mull : Nat
  /-- Added to `m` by UMLAL and SMLAL. -/
  mlal : Nat
  /-- Every store. -/
  store : Nat
  /-- A load not into `pc`. -/
  load : Nat
  /-- A load into `pc`. -/
  loadPc : Nat
  /-- SWP and SWPB. -/
  swap : Nat
  /-- B, BX, Thumb B, a taken Thumb conditional branch. -/
  branch : Nat
  /-- BL and the second half of Thumb BL. -/
  branchLink : Nat
  /-- SWI. -/
  swi : Nat
  deriving DecidableEq, Repr

/-- The default column of the table of R343. -/
def Cycles.standard : Cycles where
  regShift := 1
  pcWrite := 2
  status := 0
  mul := 0
  mla := 1
  mull := 1
  mlal := 2
  store := 2
  load := 3
  loadPc := 4
  swap := 3
  branch := 2
  branchLink := 3
  swi := 2

/-- The source's constraints of R343: 2 to 4 for a load or store, 2 to 3 for a taken branch or link. -/
abbrev Cycles.inRange (c : Cycles) : Prop :=
  (2 ≤ c.store ∧ c.store ≤ 4) ∧ (2 ≤ c.load ∧ c.load ≤ 4) ∧ (2 ≤ c.loadPc ∧ c.loadPc ≤ 4) ∧
    (2 ≤ c.branch ∧ c.branch ≤ 3) ∧ (2 ≤ c.branchLink ∧ c.branchLink ≤ 3)

/-- One register operand a `CycleCase` asks for: the value `x[reg]` holds before the instruction, under a mask. -/
structure CycleOperand where
  reg : Reg
  mask : Word
  pattern : Word
  deriving DecidableEq, Repr

/-- One case of `ExtraCycles` as a function of (instruction, operands, outcome) (R4): the instruction by T and the bits of its
word, its operands by register values and status bits before it, its outcome by whether it redirected control flow (`none`:
either); and its extra cycles. -/
structure CycleCase where
  thumb : Bool
  mask : Word
  pattern : Word
  operands : List CycleOperand
  statusMask : Word
  statusPattern : Word
  redirected : Option Bool
  extra : Nat
  deriving DecidableEq, Repr

/-- The open parameters of R4, in its order; `ExtraCycles` is the first of `cycleCases` that is about an instruction, else the
number of its row of R343's table, from `cycles`. -/
structure Params where
  pcRegShiftOffset : PcOffset
  pcStoreOffset : PcOffset
  undefinedPolicy : UndefinedPolicy
  strict : Bool
  msrUserControl : MsrUserControl
  emptyRlist : EmptyRlist
  misalignedHalfword : MisalignedHalfword
  irqLines : Nat
  cycles : Cycles
  cycleCases : List CycleCase
  deriving DecidableEq, Repr

/-- The defaults of R4. DESIGN CHOICE (notes/assumptions/13.md): `UNDEFINED_POLICY` has two defaults in the spec;
`nop` is the one taken, the value the spec's vectors use. -/
def Params.standard : Params where
  pcRegShiftOffset := .twelve
  pcStoreOffset := .twelve
  undefinedPolicy := .nop
  strict := true
  msrUserControl := .blocked
  emptyRlist := .all16
  misalignedHalfword := .arm7tdmi
  irqLines := 16
  cycles := Cycles.standard
  cycleCases := []

/-- `RESET_CPSR` (R4, R30): SVC, I = 1, F = 1, T = 0, flags 0. -/
def resetCpsr : Word := 0x000000D3#32

/-- `VEC_RESET` (R47), the default of `RESET_PC`. -/
def vecReset : Word := 0x00000000#32

/-- `VEC_SWI` (R47). -/
def vecSwi : Word := 0x00000008#32

/-- `VEC_IRQ` (R47). -/
def vecIrq : Word := 0x00000018#32

/-- What a byte of memory that nothing has written reads as. DESIGN CHOICE (notes/assumptions/4.md): the spec leaves
it to the environment (R41, 93 U23). -/
def unlistedByte : Byte := 0x00#8

end Sys2Proof.Config
end

