-- ==== Sys2Proof/Machine/Mode.lean ====
section
/-! DEFINITION. The seven modes and the number that names each in a status word (spec/10_state.md R13, R18, R22). -/

namespace Sys2Proof.Machine

/-- The seven modes (R13). -/
inductive Mode where
  | usr | fiq | irq | svc | abt | und | sys
  deriving DecidableEq, Repr

/-- The mode numbers of R13. -/
def Mode.bits : Mode → BitVec 5
  | .usr => 0x10#5
  | .fiq => 0x11#5
  | .irq => 0x12#5
  | .svc => 0x13#5
  | .abt => 0x17#5
  | .und => 0x1B#5
  | .sys => 0x1F#5

/-- The mode a number names; `none` for an invalid one (R13, R22). -/
def Mode.ofBits (b : BitVec 5) : Option Mode :=
  match b.toNat with
  | 0x10 => some .usr
  | 0x11 => some .fiq
  | 0x12 => some .irq
  | 0x13 => some .svc
  | 0x17 => some .abt
  | 0x1B => some .und
  | 0x1F => some .sys
  | _ => none

/-- The modes that own an SPSR (R13). -/
def Mode.hasSpsr : Mode → Bool
  | .usr | .sys => false
  | .fiq | .irq | .svc | .abt | .und => true

/-- The field M of a status word, bits 4:0 (R18). -/
def Psr.mode (p : Word) : BitVec 5 := p.extractLsb' 0 5

end Sys2Proof.Machine
end

