-- ==== Sys2Proof/Machine/State.lean ====
section
/-! DEFINITION. The state of the core (spec/10_state.md), the reasons a step stops, and reset (R30, R330). The environment's
memory and inputs (R28, R41) and what it will do inside the port calls to come (R333) stand in the state too, so that one machine
can run; `reactions`, `outs` and `params` are the model's own fields (notes/assumptions/2.md, 5.md, 7.md). INVENTORY.md lists every
field with its rule. -/

namespace Sys2Proof.Machine

/-- The 31 physical registers (R11). -/
inductive PReg where
  | r0 | r1 | r2 | r3 | r4 | r5 | r6 | r7
  | r8usr | r9usr | r10usr | r11usr | r12usr
  | r8fiq | r9fiq | r10fiq | r11fiq | r12fiq
  | r13usr | r14usr | r13fiq | r14fiq | r13svc | r14svc
  | r13abt | r14abt | r13irq | r14irq | r13und | r14und
  | pc
  deriving DecidableEq, Repr

/-- Where a physical register stands in `State.regs`. -/
def PReg.index : PReg → Fin 31
  | .r0 => 0 | .r1 => 1 | .r2 => 2 | .r3 => 3 | .r4 => 4 | .r5 => 5 | .r6 => 6 | .r7 => 7
  | .r8usr => 8 | .r9usr => 9 | .r10usr => 10 | .r11usr => 11 | .r12usr => 12
  | .r8fiq => 13 | .r9fiq => 14 | .r10fiq => 15 | .r11fiq => 16 | .r12fiq => 17
  | .r13usr => 18 | .r14usr => 19 | .r13fiq => 20 | .r14fiq => 21 | .r13svc => 22 | .r14svc => 23
  | .r13abt => 24 | .r14abt => 25 | .r13irq => 26 | .r14irq => 27 | .r13und => 28 | .r14und => 29
  | .pc => 30

/-- What `pending_instruction` names when it is not empty: one bucket of the ARM or the Thumb decode table (R23, R61, R66). -/
inductive Bucket where
  | arm (idx : BitVec 12)
  | thumb (idx : BitVec 10)
  deriving DecidableEq, Repr

/-- The three widths of a port call (R41). -/
inductive Size where
  | byte | half | word
  deriving DecidableEq, Repr

/-- What the core tells its environment inside a cycle: a port call with the value it moved, extended with zeros (R41, R48),
or `wake` (R310). -/
inductive OutEvent where
  | read (size : Size) (addr : Word) (value : Word)
  | write (size : Size) (addr : Word) (value : Word)
  | wake
  deriving DecidableEq, Repr

/-- Memory: the bytes that do not read as an unlisted one does, by rising address (`Memory.wf` in Ops.lean). -/
abbrev Memory := List Host.Cell

/-- The inputs the environment owns (R28). Bit `i` of the two masks is source `i`; bits from `IRQ_LINES` up are no source's and
are ignored (notes/assumptions/14.md). -/
structure Inputs where
  irqEnable : Nat
  irqPending : Nat
  irqMaster : Bool
  halted : Bool
  stopped : Bool
  deriving DecidableEq, Repr

/-- What the environment does inside one port call (R28, R333): bytes of memory it changes once the call has read or stored,
in order, and the values its inputs take, `none` where they stay (notes/assumptions/5.md). -/
structure Reaction where
  writes : List (Word × Byte)
  inputs : Option Inputs
  deriving DecidableEq, Repr

/-- The environment: memory, the inputs, and what it will do inside the coming port calls, the next call's first. -/
structure Environment where
  mem : Memory
  inputs : Inputs
  reactions : List Reaction
  deriving DecidableEq, Repr

/-- Why the machine stops. Both are the source's "core halted permanently" (R27, R301): safe, a run ends where
the core would go on doing nothing. -/
inductive Fault where
  /-- Raised by every UNDEFINED and coprocessor meaning under `UNDEFINED_POLICY = fault` (R203, R204, R288, R301). Safe. -/
  | unimplemented
  /-- Raised by `SetMode` of a number that is no mode under `STRICT = true` (R22, R301); it carries the number. Safe. -/
  | invalidMode (m : BitVec 5)
  deriving DecidableEq, Repr

/-- Why a step has no meaning. -/
inductive Refusal where
  /-- An instruction that has no meaning yet; exec's arms say which. Safe. -/
  | notModelled (mnemonic : String)
  /-- Raised by LDRH and LDRSH (ARM and Thumb) at an odd address under `MISALIGNED_HALFWORD = refuse`, where R45 says
  that the model gives these cases no meaning. Safe. -/
  | misalignedHalfword
  /-- Raised by a cycle that would dispatch a bucket without a row; no bucket is without one
  (notes/assumptions/18.md). Safe. -/
  | noDecodeRow
  deriving DecidableEq, Repr

/-- The whole machine. -/
structure State where
  /-- The 31 physical registers, `pc` among them, at `PReg.index` (R11, R16). -/
  regs : Vector Word 31
  /-- The current status word, 32 bits of storage (R18). -/
  cpsr : Word
  /-- The five saved status words (R20). -/
  spsrFiq : Word
  spsrSvc : Word
  spsrAbt : Word
  spsrIrq : Word
  spsrUnd : Word
  /-- The mode whose bank map and SPSR are in force (R26). -/
  bankMode : Mode
  /-- `pending_instruction` (R23). -/
  pending : Option Bucket
  /-- The raw fetched instruction, a Thumb halfword in bits 15:0 (R24). -/
  opcode : Word
  /-- Remaining extra cycles before the next dispatch (R25). -/
  delay : Nat
  /-- "core halted permanently" (R27). -/
  dead : Bool
  /-- The environment's memory (R40, R41). -/
  mem : Memory
  /-- The five inputs (R28). -/
  irqEnable : Nat
  irqPending : Nat
  irqMaster : Bool
  halted : Bool
  stopped : Bool
  /-- The model's own: what the environment does inside the coming port calls, the next call's first; beyond the list, nothing (R333). -/
  reactions : List Reaction
  /-- The model's own: what the core told its environment in the cycle just made, oldest first. -/
  outs : List OutEvent
  /-- The model's own: the open parameters, constant in a run. -/
  params : Config.Params
  deriving DecidableEq, Repr

/-- What a platform's boot convention gives (`RESET_CPSR`, `RESET_PC`, `RESET_REGS`; R4, R330): the status word, whose mode is one of
the seven, the start address, a value for every other general register (the slot of `pc` is not used) and one for every SPSR. -/
structure BootConvention where
  resetCpsr : Word
  namesMode : (Mode.ofBits (Psr.mode resetCpsr)).isSome = true
  resetPc : Word
  regs : Vector Word 31
  spsrFiq : Word
  spsrSvc : Word
  spsrAbt : Word
  spsrIrq : Word
  spsrUnd : Word
  deriving DecidableEq, Repr

/-- The mode `SetMode(CPSR.M)` puts in force at reset (R17, R330). -/
def BootConvention.mode (b : BootConvention) : Mode := (Mode.ofBits (Psr.mode b.resetCpsr)).get b.namesMode

/-- The default boot convention. DESIGN CHOICE (notes/assumptions/3.md): the registers and SPSRs the spec leaves
unspecified are 0. -/
def BootConvention.standard : BootConvention where
  resetCpsr := Config.resetCpsr
  namesMode := by decide
  resetPc := Config.vecReset
  regs := Vector.replicate 31 0#32
  spsrFiq := 0#32
  spsrSvc := 0#32
  spsrAbt := 0#32
  spsrIrq := 0#32
  spsrUnd := 0#32

/-- The state the reset action creates (R30, R330), with nothing in memory, every input low and nothing awaited of the environment
(notes/assumptions/6.md). -/
def State.boot (b : BootConvention) (p : Config.Params) : State where
  regs := b.regs.set PReg.pc.index.val b.resetPc PReg.pc.index.isLt
  cpsr := b.resetCpsr
  spsrFiq := b.spsrFiq
  spsrSvc := b.spsrSvc
  spsrAbt := b.spsrAbt
  spsrIrq := b.spsrIrq
  spsrUnd := b.spsrUnd
  bankMode := b.mode
  pending := none
  opcode := 0#32
  delay := 0
  dead := false
  mem := []
  irqEnable := 0
  irqPending := 0
  irqMaster := false
  halted := false
  stopped := false
  reactions := []
  outs := []
  params := p

/-- The machine right after reset, at the spec's default parameters. -/
def State.reset : State := State.boot BootConvention.standard Config.Params.standard

/-- What a step or a meaning answers. -/
abbrev Outcome := Host.Outcome State Fault Refusal

end Sys2Proof.Machine
end

