-- ==== Sys2Proof/Machine/Ops.lean ====
section
/-! DEFINITION. The named operations over registers, status words, memory and the environment (spec/10_state.md, spec/20_memory.md),
the frame every instruction runs in (spec/40_cycle_and_condition.md R89, R90), taking an exception and returning from one
(spec/60_exceptions.md R304, R320). -/

namespace Sys2Proof.Machine

/-! ## Status words (R18) -/

/-- A word with bit `k` set to `b`. -/
def setBit (p : Word) (k : Nat) (b : Bool) : Word :=
  if b then p ||| (1#32 <<< k) else p &&& ~~~(1#32 <<< k)

/-- The bit N. -/
def Psr.n (p : Word) : Bool := p.getLsbD 31
/-- The bit Z. -/
def Psr.z (p : Word) : Bool := p.getLsbD 30
/-- The bit C. -/
def Psr.c (p : Word) : Bool := p.getLsbD 29
/-- The bit V. -/
def Psr.v (p : Word) : Bool := p.getLsbD 28
/-- The bit I: 1 masks IRQ. -/
def Psr.i (p : Word) : Bool := p.getLsbD 7
/-- The bit T: 1 selects Thumb decoding. -/
def Psr.t (p : Word) : Bool := p.getLsbD 5

/-- A status word with another mode number. -/
def Psr.withMode (p : Word) (m : BitVec 5) : Word := (p &&& 0xFFFFFFE0#32) ||| m.setWidth 32
/-- A status word with another I. -/
def Psr.withI (p : Word) (b : Bool) : Word := setBit p 7 b
/-- A status word with another T. -/
def Psr.withT (p : Word) (b : Bool) : Word := setBit p 5 b
/-- A status word with other flags N, Z, C, V. -/
def Psr.withFlags (p : Word) (n z c v : Bool) : Word := setBit (setBit (setBit (setBit p 31 n) 30 z) 29 c) 28 v

/-! ## Registers (R11, R14, R15) -/

/-- The bank map (R14). -/
def phys (m : Mode) (i : Reg) : PReg :=
  match i.toNat with
  | 0 => .r0 | 1 => .r1 | 2 => .r2 | 3 => .r3 | 4 => .r4 | 5 => .r5 | 6 => .r6 | 7 => .r7
  | 8 => if m = .fiq then .r8fiq else .r8usr
  | 9 => if m = .fiq then .r9fiq else .r9usr
  | 10 => if m = .fiq then .r10fiq else .r10usr
  | 11 => if m = .fiq then .r11fiq else .r11usr
  | 12 => if m = .fiq then .r12fiq else .r12usr
  | 13 =>
    match m with
    | .usr | .sys => .r13usr
    | .fiq => .r13fiq
    | .irq => .r13irq
    | .svc => .r13svc
    | .abt => .r13abt
    | .und => .r13und
  | 14 =>
    match m with
    | .usr | .sys => .r14usr
    | .fiq => .r14fiq
    | .irq => .r14irq
    | .svc => .r14svc
    | .abt => .r14abt
    | .und => .r14und
  | _ => .pc

/-- A physical register's value. -/
def State.reg (s : State) (p : PReg) : Word := s.regs.get p.index

/-- The state with one physical register written. -/
def State.setReg (s : State) (p : PReg) (v : Word) : State :=
  { s with regs := s.regs.set p.index.val v p.index.isLt }

/-- `pc`, the address of the instruction being executed (R16). -/
def State.pc (s : State) : Word := s.reg .pc

/-- The raw write of `pc`, without alignment. -/
def State.setPc (s : State) (v : Word) : State := s.setReg .pc v

/-- `x[i]` read (R5, R14). -/
def State.x (s : State) (i : Reg) : Word := s.reg (phys s.bankMode i)

/-- `xusr[i]` read: the User bank whatever the mode (R15). -/
def State.xusr (s : State) (i : Reg) : Word := s.reg (phys .usr i)

/-- Whether the core is in Thumb state (R18). -/
def State.thumb (s : State) : Bool := Psr.t s.cpsr

/-- The width of an instruction in the state in force (R89). -/
def State.width (s : State) : Word := if s.thumb then 2#32 else 4#32

/-- How far ahead of `pc` an operand read of r15 is (R88). -/
def State.pcAhead (s : State) : Word := if s.thumb then 4#32 else 8#32

/-- `xop(i)`: the operand read of R5 and R88. -/
def State.xop (s : State) (i : Reg) : Word := if i = 15#4 then s.pc + s.pcAhead else s.x i

/-- The operand read of R88 in a data-processing instruction with a register-specified shift. -/
def State.xopShiftReg (s : State) (i : Reg) : Word :=
  if i = 15#4 then s.pc + s.params.pcRegShiftOffset.word else s.x i

/-- The value a store moves when its register is r15: `pc + PC_STORE_OFFSET` in ARM state (R88), `pc + 4` in Thumb state (R271). -/
def State.storedPc (s : State) : Word :=
  if s.thumb then s.pc + 4#32 else s.pc + s.params.pcStoreOffset.word

/-- The value a store moves. -/
def State.storeValue (s : State) (i : Reg) : Word := if i = 15#4 then s.storedPc else s.x i

/-- A target aligned by the instruction-set state in force (R90). -/
def State.alignTarget (s : State) (v : Word) : Word :=
  if s.thumb then v &&& 0xFFFFFFFE#32 else v &&& 0xFFFFFFFC#32

/-- `pc <- v` (R90), without the mark that control flow was redirected. -/
def State.writePc (s : State) (v : Word) : State := s.setPc (s.alignTarget v)

/-- `x[i] <- v` (R5, R14): for r15 the write of R90. -/
def State.setX (s : State) (i : Reg) (v : Word) : State :=
  if i = 15#4 then s.writePc v else s.setReg (phys s.bankMode i) v

/-! ## Updates of one field -/

/-- The state with another CPSR. -/
def State.setCpsr (s : State) (v : Word) : State := { s with cpsr := v }
/-- The state with another bank map. -/
def State.setBankMode (s : State) (m : Mode) : State := { s with bankMode := m }
/-- The state with another `delay`. -/
def State.setDelay (s : State) (d : Nat) : State := { s with delay := d }
/-- The state with another memory. -/
def State.setMem (s : State) (m : Memory) : State := { s with mem := m }
/-- The state with another `pending_instruction`. -/
def State.setPending (s : State) (b : Option Bucket) : State := { s with pending := b }
/-- The state with another `opcode`. -/
def State.setOpcode (s : State) (w : Word) : State := { s with opcode := w }
/-- The state with one more output. -/
def State.emit (s : State) (e : OutEvent) : State := { s with outs := s.outs ++ [e] }
/-- The state with no outputs, at the start of a cycle. -/
def State.clearOuts (s : State) : State := { s with outs := [] }

/-! ## Saved status words (R20, R21) -/

/-- The SPSR of a mode that has one; the CPSR for USR and SYS (R21, read). -/
def State.spsrOf (s : State) : Mode → Word
  | .fiq => s.spsrFiq
  | .svc => s.spsrSvc
  | .abt => s.spsrAbt
  | .irq => s.spsrIrq
  | .und => s.spsrUnd
  | .usr | .sys => s.cpsr

/-- The SPSR of a mode written; nothing for USR and SYS (R21, write). -/
def State.setSpsrOf (s : State) (m : Mode) (v : Word) : State :=
  match m with
  | .fiq => { s with spsrFiq := v }
  | .svc => { s with spsrSvc := v }
  | .abt => { s with spsrAbt := v }
  | .irq => { s with spsrIrq := v }
  | .und => { s with spsrUnd := v }
  | .usr | .sys => s

/-- `SPSR_cur()` read (R21). -/
def State.spsrCur (s : State) : Word := s.spsrOf s.bankMode

/-- `SPSR_cur() <- v` (R21). -/
def State.setSpsrCur (s : State) (v : Word) : State := s.setSpsrOf s.bankMode v

/-- `SetMode(CPSR.M)` (R17) with `InvalidMode` (R22): a fault when STRICT, else the bank map as it was. -/
def State.resolveMode (s : State) : Except Fault State :=
  match Mode.ofBits (Psr.mode s.cpsr) with
  | some m => .ok (s.setBankMode m)
  | none => if s.params.strict then .error (.invalidMode (Psr.mode s.cpsr)) else .ok s

/-- The CPSR written whole and the mode resolved, as every SPSR-to-CPSR copy does (R17, R121, R185). -/
def State.restoreCpsr (s : State) (v : Word) : Except Fault State := (s.setCpsr v).resolveMode

/-! ## Memory (R40 to R46) -/

/-- One byte; an unlisted address reads as `Config.unlistedByte`. -/
def Memory.read (m : Memory) (a : Nat) : Byte :=
  match m with
  | [] => Config.unlistedByte
  | (k, v) :: rest => if k = a then v else Memory.read rest a

/-- One byte written, the canonical form kept: no cell holds what an unlisted address reads as. -/
def Memory.write (m : Memory) (a : Nat) (b : Byte) : Memory :=
  match m with
  | [] => if b = Config.unlistedByte then [] else [(a, b)]
  | (k, v) :: rest =>
    if a < k then (if b = Config.unlistedByte then (k, v) :: rest else (a, b) :: (k, v) :: rest)
    else if a = k then (if b = Config.unlistedByte then rest else (a, b) :: rest)
    else (k, v) :: Memory.write rest a b

/-- The canonical form: addresses strictly rising and below 2^32, no cell equal to what an unlisted address reads as. -/
abbrev Memory.wf (m : Memory) : Prop :=
  m.Pairwise (fun c d => c.1 < d.1) ∧ ∀ c ∈ m, c.1 < 2 ^ 32 ∧ c.2 ≠ Config.unlistedByte

/-- The byte at an address (R40). -/
def Memory.read8 (m : Memory) (a : Word) : Byte := Memory.read m a.toNat

/-- The halfword at an address, little-endian (R42). -/
def Memory.read16 (m : Memory) (a : Word) : Half := halfOfBytes (m.read8 a) (m.read8 (a + 1#32))

/-- The word at an address, little-endian (R42). -/
def Memory.read32 (m : Memory) (a : Word) : Word :=
  wordOfBytes (m.read8 a) (m.read8 (a + 1#32)) (m.read8 (a + 2#32)) (m.read8 (a + 3#32))

/-- The byte at an address written. -/
def Memory.write8 (m : Memory) (a : Word) (b : Byte) : Memory := Memory.write m a.toNat b

/-- The halfword at an address written, little-endian (R42). -/
def Memory.write16 (m : Memory) (a : Word) (h : Half) : Memory :=
  (m.write8 a (h.extractLsb' 0 8)).write8 (a + 1#32) (h.extractLsb' 8 8)

/-- The word at an address written, little-endian (R42). -/
def Memory.write32 (m : Memory) (a : Word) (w : Word) : Memory :=
  (((m.write8 a (w.extractLsb' 0 8)).write8 (a + 1#32) (w.extractLsb' 8 8)).write8 (a + 2#32) (w.extractLsb' 16 8)).write8
    (a + 3#32) (w.extractLsb' 24 8)

/-- A port write: the low bytes of the value, as many as its width has (R41, R42). -/
def Memory.store (m : Memory) (z : Size) (a v : Word) : Memory :=
  match z with
  | .byte => m.write8 a (v.extractLsb' 0 8)
  | .half => m.write16 a (v.extractLsb' 0 16)
  | .word => m.write32 a v

/-! ## The environment inside a cycle (R28, R41, R333) -/

/-- What the environment does at the end of a port call: the next of its reactions, or, with none left, nothing. -/
def Environment.react (e : Environment) : Environment :=
  match e.reactions with
  | [] => e
  | r :: rest =>
    { mem := r.writes.foldl (fun m c => m.write8 c.1 c.2) e.mem, inputs := r.inputs.getD e.inputs, reactions := rest }

/-- What one event of the core leaves of the environment: a read reacts, a write stores and reacts, `wake` clears `halted` and
`stopped` (R28, R310 step I3). -/
def Environment.answer (e : Environment) : OutEvent → Environment
  | .read _ _ _ => e.react
  | .write z a v => ({ e with mem := e.mem.store z a v } : Environment).react
  | .wake => { e with inputs := { e.inputs with halted := false, stopped := false } }

/-- The environment's part of the state. -/
def State.environment (s : State) : Environment :=
  { mem := s.mem, reactions := s.reactions,
    inputs := { irqEnable := s.irqEnable, irqPending := s.irqPending, irqMaster := s.irqMaster, halted := s.halted,
                stopped := s.stopped } }

/-- The state with another environment. -/
def State.setEnvironment (s : State) (e : Environment) : State :=
  { s with mem := e.mem, irqEnable := e.inputs.irqEnable, irqPending := e.inputs.irqPending, irqMaster := e.inputs.irqMaster,
           halted := e.inputs.halted, stopped := e.inputs.stopped, reactions := e.reactions }

/-- One event of the core, port call or `wake`: it is recorded, and the environment answers it before the core goes on (R41). -/
def State.called (s : State) (c : OutEvent) : State := (s.emit c).setEnvironment (s.environment.answer c)

/-- `wake` (R28, R310 step I3). -/
def State.wake (s : State) : State := s.called .wake

/-! ## Accesses (R43 to R45) -/

/-- The address of a word access (R43). -/
def alignWord (a : Word) : Word := a &&& 0xFFFFFFFC#32

/-- The address of a halfword access (R43). -/
def alignHalf (a : Word) : Word := a &&& 0xFFFFFFFE#32

/-- What a load gives its register and the one port call it makes (R48). -/
structure Access where
  value : Word
  call : OutEvent
  deriving DecidableEq, Repr

/-- A word read at the aligned address, not rotated: the fetch of R46 and the block transfers of R43. -/
def State.readWord (s : State) (addr : Word) : Access :=
  let v := s.mem.read32 (alignWord addr)
  ⟨v, .read .word (alignWord addr) v⟩

/-- `LoadWord` (R44): the aligned word rotated right by `8 * (addr & 3)`. -/
def State.loadWord (s : State) (addr : Word) : Access :=
  let v := s.mem.read32 (alignWord addr)
  ⟨v.rotateRight (8 * (addr.extractLsb' 0 2).toNat), .read .word (alignWord addr) v⟩

/-- A byte load, zero-extended (R43). -/
def State.loadByte (s : State) (addr : Word) : Access :=
  let v := (s.mem.read8 addr).setWidth 32
  ⟨v, .read .byte addr v⟩

/-- A byte load, sign-extended (R43). -/
def State.loadSignedByte (s : State) (addr : Word) : Access :=
  let b := s.mem.read8 addr
  ⟨b.signExtend 32, .read .byte addr (b.setWidth 32)⟩

/-- `LoadHalf` (R45): at an odd address the halfword below it, rotated right by 8. -/
def State.loadHalf (s : State) (addr : Word) : Access :=
  let v := (s.mem.read16 (alignHalf addr)).setWidth 32
  ⟨if addr.getLsbD 0 then v.rotateRight 8 else v, .read .half (alignHalf addr) v⟩

/-- `LoadSignedHalf` (R45): at an odd address that byte, sign-extended. -/
def State.loadSignedHalf (s : State) (addr : Word) : Access :=
  if addr.getLsbD 0 then s.loadSignedByte addr
  else
    let h := s.mem.read16 addr
    ⟨h.signExtend 32, .read .half addr (h.setWidth 32)⟩

/-- A word store at the aligned address, not rotated (R43). -/
def State.storeWord (s : State) (addr v : Word) : State := s.called (.write .word (alignWord addr) v)

/-- A halfword store at the aligned address: the low half of the register (R43). -/
def State.storeHalf (s : State) (addr v : Word) : State :=
  s.called (.write .half (alignHalf addr) ((v.extractLsb' 0 16).setWidth 32))

/-- A byte store: the low byte of the register (R43). -/
def State.storeByte (s : State) (addr v : Word) : State := s.called (.write .byte addr ((v.extractLsb' 0 8).setWidth 32))

/-- Whether a halfword load has no meaning: an odd address under `MISALIGNED_HALFWORD = refuse` (R45). -/
def State.refusesHalf (s : State) (addr : Word) : Bool :=
  addr.getLsbD 0 && decide (s.params.misalignedHalfword = .refuse)

/-! ## `ExtraCycles` (R4, R343) -/

/-- Whether one case of `Params.cycleCases` is about an instruction, by the instruction, its operands and its outcome: `s` is the state it
starts in, where `opcode` and T say which instruction it is (R24). -/
def State.cycleCase (s : State) (redirected : Bool) (c : Config.CycleCase) : Bool :=
  c.thumb == s.thumb && s.opcode &&& c.mask == c.pattern && s.cpsr &&& c.statusMask == c.statusPattern &&
    c.operands.all (fun o => s.x o.reg &&& o.mask == o.pattern) && (c.redirected.getD redirected == redirected)

/-- `ExtraCycles` of an instruction: the first case about it, or the number its row of R343's table gives. -/
def State.extraCycles (s : State) (redirected : Bool) (table : Nat) : Nat :=
  match s.params.cycleCases.find? (s.cycleCase redirected) with
  | some c => c.extra
  | none => table

/-! ## The instruction frame (R89) -/

/-- An instruction under way: the state so far, the state it started in, and whether it redirected control flow. -/
structure Run where
  st : State
  origin : State
  redirected : Bool
  deriving DecidableEq, Repr

/-- The width, taken before the instruction ran (R89). -/
def Run.width (r : Run) : Word := r.origin.width

/-- The start of an instruction. -/
def Run.start (s : State) : Run := ⟨s, s, false⟩

/-- A step of the instruction that redirects nothing. -/
def Run.map (r : Run) (f : State → State) : Run := { r with st := f r.st }

/-- `pc <- v` in a rule (R90). -/
def Run.jump (r : Run) (v : Word) : Run := { r with st := r.st.writePc v, redirected := true }

/-- `x[i] <- v` in a rule: a write of r15 redirects (R89, R90). -/
def Run.setX (r : Run) (i : Reg) (v : Word) : Run :=
  if i = 15#4 then r.jump v else r.map (·.setReg (phys r.st.bankMode i) v)

/-- `xusr[i] <- v` in a rule (R15); r15 is the one program counter in every bank (R14). -/
def Run.setXusr (r : Run) (i : Reg) (v : Word) : Run :=
  if i = 15#4 then r.jump v else r.map (·.setReg (phys .usr i) v)

/-- The end of an instruction: `pc` advanced unless redirected, and `delay` set to its extra cycles, which are those of the table
unless `Params.cycleCases` says otherwise (R89). DESIGN CHOICE (notes/assumptions/21.md): the advance keeps the low bits of
a misaligned `pc` (R89's `pc + w`), which R90's `pc <- v` would clear. -/
def Run.finish (r : Run) (table : Nat) : Outcome :=
  .next ((if r.redirected then r.st else r.st.setPc (r.st.pc + r.width)).setDelay (r.origin.extraCycles r.redirected table))

/-- The end of an instruction that may have hit a fault. -/
def finishOrFault (r : Except Fault Run) (table : Nat) : Outcome :=
  match r with
  | .ok r => r.finish table
  | .error f => .fault f

/-- An instruction with no effect but the frame's (R203, R204). -/
def noEffect (s : State) (table : Nat) : Outcome := (Run.start s).finish table

/-- UNDEFINED and coprocessor encodings (R203, R204, R288): nothing, or the fault, by `UNDEFINED_POLICY`. -/
def unimplementedInstr (s : State) : Outcome :=
  match s.params.undefinedPolicy with
  | .nop => noEffect s 0
  | .fault => .fault .unimplemented

/-! ## Exceptions -/

/-- `EnterException(m, vec, ra)` (R304), for SWI and IRQ. -/
def State.enterException (s : State) (m : Mode) (vec ra : Word) : State :=
  let old := s.cpsr
  let s := (s.setCpsr (Psr.withMode old m.bits)).setBankMode m
  let s := s.setSpsrOf m old
  let s := s.setReg (phys m 14#4) ra
  let s := s.setCpsr (Psr.withT (Psr.withI s.cpsr true) false)
  s.writePc vec

/-- `raise SWI(return = ra)` (R199, R283): the entry redirects control flow. -/
def softwareInterrupt (s : State) (ra : Word) : Outcome :=
  let r := Run.start s
  Run.finish { r with st := r.st.enterException .svc Config.vecSwi ra, redirected := true } s.params.cycles.swi

/-- The SPSR-to-CPSR copy and the jump of an exception return (R121, R185, R320): the target is aligned by the restored T. -/
def Run.exceptionReturn (r : Run) (target : Word) : Except Fault Run :=
  match r.st.restoreCpsr r.st.spsrCur with
  | .ok s => .ok (Run.jump { r with st := s } target)
  | .error f => .error f

end Sys2Proof.Machine
end

