-- ==== Sys2Proof/Machine/Flags.lean ====
section
/-! DEFINITION. The adder, the sixteen ALU operations and the flag-update policy (spec/41_shifter_alu.md R108 to R112,
spec/43_arm_multiply.md R150), and the condition evaluator (spec/40_cycle_and_condition.md R86). -/

namespace Sys2Proof.Machine

/-- A result with the C and V it would write. -/
structure AluOut where
  r : Word
  c : Bool
  v : Bool
  deriving DecidableEq, Repr

/-- `AddWithCarry` (R108). -/
def addWithCarry (a b : Word) (c : Bool) : AluOut :=
  let sum33 : BitVec 33 := a.setWidth 33 + b.setWidth 33 + (BitVec.ofBool c).setWidth 33
  let r : Word := sum33.setWidth 32
  ⟨r, sum33.getLsbD 32, (~~~(a ^^^ b) &&& (a ^^^ r)).getLsbD 31⟩

/-- The sixteen operations, in the order of their numbers (R63). -/
inductive AluOp where
  | and | eor | sub | rsb | add | adc | sbc | rsc | tst | teq | cmp | cmn | orr | mov | bic | mvn
  deriving DecidableEq, Repr

/-- Whether the operation writes Rd (R111). -/
def AluOp.writesRd : AluOp → Bool
  | .tst | .teq | .cmp | .cmn => false
  | .and | .eor | .sub | .rsb | .add | .adc | .sbc | .rsc | .orr | .mov | .bic | .mvn => true

/-- The table of R111 with the flags of R109 and R110: `a` is Rn, `b` operand 2, `sc` the shifter carry, `c` and `v` the
flags before. A logical operation leaves C as the shifter set it and V as it was. -/
def AluOp.eval (op : AluOp) (a b : Word) (sc c v : Bool) : AluOut :=
  match op with
  | .and => ⟨a &&& b, sc, v⟩
  | .eor => ⟨a ^^^ b, sc, v⟩
  | .sub => addWithCarry a (~~~b) true
  | .rsb => addWithCarry b (~~~a) true
  | .add => addWithCarry a b false
  | .adc => addWithCarry a b c
  | .sbc => addWithCarry a (~~~b) c
  | .rsc => addWithCarry b (~~~a) c
  | .tst => ⟨a &&& b, sc, v⟩
  | .teq => ⟨a ^^^ b, sc, v⟩
  | .cmp => addWithCarry a (~~~b) true
  | .cmn => addWithCarry a b false
  | .orr => ⟨a ||| b, sc, v⟩
  | .mov => ⟨b, sc, v⟩
  | .bic => ⟨a &&& ~~~b, sc, v⟩
  | .mvn => ⟨~~~b, sc, v⟩

/-- The flags N, Z, C, V written. -/
def State.setFlags (s : State) (n z c v : Bool) : State := s.setCpsr (Psr.withFlags s.cpsr n z c v)

/-- The flag update of a data-processing result (R109, R110, R120): N and Z follow the result. -/
def State.setAluFlags (s : State) (o : AluOut) : State := s.setFlags (o.r.getLsbD 31) (o.r == 0#32) o.c o.v

/-- N and Z from a result, C and V as they were (R210). -/
def State.setNZ (s : State) (r : Word) : State :=
  s.setFlags (r.getLsbD 31) (r == 0#32) (Psr.c s.cpsr) (Psr.v s.cpsr)

/-- The flag update of a multiply with S: C and V cleared (R150, R235). -/
def State.setMulFlags (s : State) (n z : Bool) : State := s.setFlags n z false false

/-- `ConditionPassed(c)` on a status word (R86). -/
def conditionPassed (c : Cond) (p : Word) : Bool :=
  match c with
  | .eq => Psr.z p
  | .ne => !Psr.z p
  | .cs => Psr.c p
  | .cc => !Psr.c p
  | .mi => Psr.n p
  | .pl => !Psr.n p
  | .vs => Psr.v p
  | .vc => !Psr.v p
  | .hi => Psr.c p && !Psr.z p
  | .ls => !Psr.c p || Psr.z p
  | .ge => Psr.n p == Psr.v p
  | .lt => Psr.n p != Psr.v p
  | .gt => !Psr.z p && (Psr.n p == Psr.v p)
  | .le => Psr.z p || (Psr.n p != Psr.v p)
  | .al => true
  | .nv => false

end Sys2Proof.Machine
end

