-- ==== Sys2Proof/Machine/Operands.lean ====
section
/-! DEFINITION. The operand forms: the barrel shifter and the immediate operand (spec/41_shifter_alu.md R100 to R107, R113),
the addressing of single, halfword and block transfers (spec/44_arm_load_store.md R160, R170, spec/45_arm_block_transfer.md
R181, R182), branch offsets (spec/30_encoding.md R65, R69) and the MSR mask (spec/46_arm_branch_status_system.md R195). -/

namespace Sys2Proof.Machine

/-! ## The barrel shifter -/

/-- Whether a shift amount is the 5-bit field of the instruction or the low byte of a register (R100). -/
inductive ShiftForm where
  | imm | reg
  deriving DecidableEq, Repr

/-- A shifter result with its carry-out. -/
structure Shifted where
  value : Word
  carry : Bool
  deriving DecidableEq, Repr

/-- A word of copies of one bit. -/
def fill (b : Bool) : Word := if b then 0xFFFFFFFF#32 else 0#32

/-- The amounts of 1 and more, the same in both forms (R103). -/
def shiftBy (kind : ShiftKind) (v : Word) (s : Nat) : Shifted :=
  match kind with
  | .lsl =>
    if s ≤ 31 then ⟨v <<< s, v.getLsbD (32 - s)⟩
    else if s = 32 then ⟨0#32, v.getLsbD 0⟩
    else ⟨0#32, false⟩
  | .lsr =>
    if s ≤ 31 then ⟨v >>> s, v.getLsbD (s - 1)⟩
    else if s = 32 then ⟨0#32, v.getLsbD 31⟩
    else ⟨0#32, false⟩
  | .asr =>
    if s ≤ 31 then ⟨v.sshiftRight s, v.getLsbD (s - 1)⟩
    else ⟨fill (v.getLsbD 31), v.getLsbD 31⟩
  | .ror =>
    let t := s % 32
    if t = 0 then ⟨v, v.getLsbD 31⟩
    else ⟨(v >>> t) ||| (v <<< (32 - t)), v.getLsbD (t - 1)⟩

/-- The immediate amount 0: LSL #0, LSR #32, ASR #32, RRX (R101). -/
def shiftImmZero (kind : ShiftKind) (v : Word) (cin : Bool) : Shifted :=
  match kind with
  | .lsl => ⟨v, cin⟩
  | .lsr => ⟨0#32, v.getLsbD 31⟩
  | .asr => ⟨fill (v.getLsbD 31), v.getLsbD 31⟩
  | .ror => ⟨((BitVec.ofBool cin).setWidth 32 <<< 31) ||| (v >>> 1), v.getLsbD 0⟩

/-- `Shift(kind, v, s, cin, form)` (R103). -/
def shift (kind : ShiftKind) (v : Word) (s : Nat) (cin : Bool) (form : ShiftForm) : Shifted :=
  if s = 0 then
    match form with
    | .imm => shiftImmZero kind v cin
    | .reg => ⟨v, cin⟩
  else shiftBy kind v s

/-- The rotated immediate of formats A3 and A6 (R65, R106): `ror(zext_32(imm8), 2 * rotate)`. -/
def rotatedImm (rotate : BitVec 4) (imm8 : BitVec 8) : Word := (imm8.setWidth 32).rotateRight (2 * rotate.toNat)

/-- `ImmOperand(rotate, imm8, cin)` (R106). -/
def immOperand (rotate : BitVec 4) (imm8 : BitVec 8) (cin : Bool) : Shifted :=
  let r := rotatedImm rotate imm8
  ⟨r, if rotate = 0#4 then cin else r.getLsbD 31⟩

/-- The shifter operand of format A1 (R107). -/
def State.operandShiftImm (s : State) (shiftImm : BitVec 5) (kind : ShiftKind) (rm : Reg) : Shifted :=
  shift kind (s.xop rm) shiftImm.toNat (Psr.c s.cpsr) .imm

/-- The shift amount of format A2: the low byte of Rs (R102, R107). -/
def State.shiftAmount (s : State) (rs : Reg) : Nat := ((s.xopShiftReg rs).extractLsb' 0 8).toNat

/-- The shifter operand of format A2 (R107). -/
def State.operandShiftReg (s : State) (rs : Reg) (kind : ShiftKind) (rm : Reg) : Shifted :=
  shift kind (s.xopShiftReg rm) (s.shiftAmount rs) (Psr.c s.cpsr) .reg

/-- The shifter operand of format A3 (R107). -/
def State.operandImm (s : State) (rotate : BitVec 4) (imm8 : BitVec 8) : Shifted :=
  immOperand rotate imm8 (Psr.c s.cpsr)

/-! ## Addressing -/

/-- A transfer's address, whether the base is written back, and with what (R160, R170). -/
structure Addressed where
  addr : Word
  writeBack : Bool
  newBase : Word
  deriving DecidableEq, Repr

/-- The indexing of R160 and R170: pre-indexed with write-back by W, post-indexed with write-back always. -/
def indexed (p u w : Bool) (base off : Word) : Addressed :=
  let idx := if u then base + off else base - off
  if p then ⟨idx, w, idx⟩ else ⟨base, true, idx⟩

/-- The offset of format A14: a shifted register, the carry thrown away (R113, R160). -/
def State.offsetShifted (s : State) (shiftImm : BitVec 5) (kind : ShiftKind) (rm : Reg) : Word :=
  (s.operandShiftImm shiftImm kind rm).value

/-- The address of format A13 (R160). -/
def State.addressImm (s : State) (p u w : Bool) (rn : Reg) (imm12 : BitVec 12) : Addressed :=
  indexed p u w (s.xop rn) (imm12.setWidth 32)

/-- The address of format A14 (R160). -/
def State.addressReg (s : State) (p u w : Bool) (rn : Reg) (shiftImm : BitVec 5) (kind : ShiftKind) (rm : Reg) : Addressed :=
  indexed p u w (s.xop rn) (s.offsetShifted shiftImm kind rm)

/-- The address of format A12: an 8-bit immediate in two halves (R65, R170). -/
def State.addressHalfImm (s : State) (p u w : Bool) (rn : Reg) (immH immL : BitVec 4) : Addressed :=
  indexed p u w (s.xop rn) ((immH ++ immL).setWidth 32)

/-- The address of format A11: a plain register (R170). -/
def State.addressHalfReg (s : State) (p u w : Bool) (rn rm : Reg) : Addressed :=
  indexed p u w (s.xop rn) (s.xop rm)

/-! ## Block transfers -/

/-- The sixteen logical registers in the order a list is walked (R183). -/
def allRegs : List Reg :=
  [0#4, 1#4, 2#4, 3#4, 4#4, 5#4, 6#4, 7#4, 8#4, 9#4, 10#4, 11#4, 12#4, 13#4, 14#4, 15#4]

/-- The registers a list names, ascending (R180). -/
def listedRegs (list : BitVec 16) : List Reg := allRegs.filter fun i => list.getLsbD i.toNat

/-- The list that is transferred and the number of words the base moves by: the empty list is treated by `EMPTY_RLIST` (R182). -/
def effectiveList (policy : Config.EmptyRlist) (list : BitVec 16) : BitVec 16 × Nat :=
  if list = 0#16 then
    match policy with
    | .all16 => (0xFFFF#16, 16)
    | .r15Only => (0x8000#16, 16)
  else (list, (listedRegs list).length)

/-- The lowest address of the block and the final base. -/
structure BlockAddr where
  start : Word
  final : Word
  deriving DecidableEq, Repr

/-- `BlockAddr(base, n, P, U)` (R181). -/
def blockAddr (base : Word) (n : Nat) (p u : Bool) : BlockAddr :=
  let size : Word := BitVec.ofNat 32 (4 * n)
  if u then ⟨base + (if p then 4#32 else 0#32), base + size⟩
  else ⟨base - size + (if p then 0#32 else 4#32), base - size⟩

/-! ## Branches and MSR -/

/-- The byte offset of an ARM branch: `sext_32(imm24) << 2` (R65, R190). -/
def branchOffset (imm24 : BitVec 24) : Word := imm24.signExtend 32 <<< 2

/-- The base of a PC-relative Thumb address: `(pc + 4) & 0xFFFFFFFC` (R88, R242, R250). -/
def State.thumbPcBase (s : State) : Word := (s.pc + 4#32) &&& 0xFFFFFFFC#32

/-- The bytes an MSR field mask selects: f, s, x, c at bits 3 to 0 of the field (R195). -/
def msrMask (mask : BitVec 4) : Word :=
  (if mask.getLsbD 3 then 0xFF000000#32 else 0#32) ||| (if mask.getLsbD 2 then 0x00FF0000#32 else 0#32) |||
    (if mask.getLsbD 1 then 0x0000FF00#32 else 0#32) ||| (if mask.getLsbD 0 then 0x000000FF#32 else 0#32)

end Sys2Proof.Machine
end

