-- ==== Sys2Proof/Machine/Timing.lean ====
section
/-! DEFINITION. The table of `ExtraCycles` (spec/70_reset_and_hazards.md R343) over the numbers of `State.params.cycles`; it gives
the extra cycles of an instruction that no `CycleCase` is about (`State.extraCycles` in Ops.lean; notes/assumptions/23.md). -/

namespace Sys2Proof.Machine

/-- Data processing and the Thumb ALU: 0, more for a register-specified shift amount, more for a write of `pc` (R343). -/
def State.aluCycles (s : State) (regShift writesPc : Bool) : Nat :=
  (if regShift then s.params.cycles.regShift else 0) + (if writesPc then s.params.cycles.pcWrite else 0)

/-- A load, by whether its destination is `pc` (R343). DEDUCED (notes/assumptions/12.md): every load into r15 counts as one. -/
def State.loadCycles (s : State) (intoPc : Bool) : Nat :=
  if intoPc then s.params.cycles.loadPc else s.params.cycles.load

/-- The multiplier count `m` of R343 for the register in the Rs position; `ones` says whether high bits of all ones
count as zeros do (every multiply but UMULL and UMLAL). DESIGN CHOICE (notes/assumptions/23.md): where no `CycleCase` is about a
multiply, `m` is this default of the table. -/
def multiplierCycles (v : Word) (ones : Bool) : Nat :=
  if v.extractLsb' 8 24 = 0#24 ∨ (ones ∧ v.extractLsb' 8 24 = BitVec.allOnes 24) then 1
  else if v.extractLsb' 16 16 = 0#16 ∨ (ones ∧ v.extractLsb' 16 16 = BitVec.allOnes 16) then 2
  else if v.extractLsb' 24 8 = 0#8 ∨ (ones ∧ v.extractLsb' 24 8 = BitVec.allOnes 8) then 3
  else 4

end Sys2Proof.Machine
end

