-- ==== Sys2Proof/Machine/BlockTransfer.lean ====
section
/-! DEFINITION. The ARM block transfers (spec/45_arm_block_transfer.md) and the four Thumb ones that are the same transfer
(spec/48_thumb_load_store.md R267 to R271). -/

namespace Sys2Proof.Machine

/-- The fields of a block transfer and what they come to (R180 to R184): the registers in the order they are walked,
the first address, the final base, and whether the User bank is meant. -/
structure Block where
  rn : Reg
  sBit : Bool
  w : Bool
  regs : List Reg
  start : Word
  final : Word
  userBank : Bool
  hasPc : Bool
  deriving DecidableEq, Repr

/-- What the fields of a block transfer come to in a state. A base register 15 reads as an operand (R181). -/
def State.block (s : State) (load p u sBit w : Bool) (rn : Reg) (list : BitVec 16) : Block :=
  let e := effectiveList s.params.emptyRlist list
  let a := blockAddr (s.xop rn) e.2 p u
  { rn := rn, sBit := sBit, w := w, regs := listedRegs e.1, start := a.start, final := a.final,
    userBank := sBit && !(load && e.1.getLsbD 15), hasPc := e.1.getLsbD 15 }

/-- The write-back of R183, made at the first transfer only. -/
def Run.blockWriteBack (r : Run) (b : Block) (first : Bool) : Run :=
  if first && b.w then r.setX b.rn b.final else r

/-- A loaded word written to its register: r15 with S restores the CPSR (R184 case 1, R185). -/
def Run.blockWriteReg (r : Run) (b : Block) (i : Reg) (v : Word) : Except Fault Run :=
  if i = 15#4 && b.sBit then r.exceptionReturn v
  else .ok (if b.userBank then r.setXusr i v else r.setX i v)

/-- The loop of R183 with L = 1: each word is read, the base written back once, the register written. -/
def blockLoad (b : Block) (regs : List Reg) (addr : Word) (first : Bool) (r : Run) : Except Fault Run :=
  match regs with
  | [] => .ok r
  | i :: rest =>
    let m := r.st.readWord addr
    match ((r.map (·.called m.call)).blockWriteBack b first).blockWriteReg b i m.value with
    | .ok r => blockLoad b rest (addr + 4#32) false r
    | .error f => .error f

/-- The word a store moves for one register: the User bank's or the current mode's, and for r15 that of R88 and R271. -/
def State.blockValue (s : State) (b : Block) (i : Reg) : Word :=
  if i = 15#4 then s.storedPc else if b.userBank then s.xusr i else s.x i

/-- The loop of R183 with L = 0: each register is stored, the base written back once, after the first store. DEDUCED
(notes/assumptions/11.md): a write-back to r15 is seen by the store of r15. -/
def blockStore (b : Block) (regs : List Reg) (addr : Word) (first : Bool) (r : Run) : Run :=
  match regs with
  | [] => r
  | i :: rest =>
    blockStore b rest (addr + 4#32) false
      ((r.map fun t => t.storeWord addr (t.blockValue b i)).blockWriteBack b first)

/-- `BlockTransfer` with L = 1 (R183). -/
def loadMultiple (p u sBit w : Bool) (rn : Reg) (list : BitVec 16) (s : State) : Outcome :=
  let b := s.block true p u sBit w rn list
  finishOrFault (blockLoad b b.regs b.start true (Run.start s)) (s.loadCycles b.hasPc)

/-- `BlockTransfer` with L = 0 (R183). -/
def storeMultiple (p u sBit w : Bool) (rn : Reg) (list : BitVec 16) (s : State) : Outcome :=
  let b := s.block false p u sBit w rn list
  (blockStore b b.regs b.start true (Run.start s)).finish s.params.cycles.store

/-- STM (R186). -/
def execStm (p u sBit w : Bool) (rn : Reg) (list : BitVec 16) (s : State) : Outcome :=
  storeMultiple p u sBit w rn list s

/-- LDM (R185). -/
def execLdm (p u sBit w : Bool) (rn : Reg) (list : BitVec 16) (s : State) : Outcome :=
  loadMultiple p u sBit w rn list s

/-- PUSH (R267): STMDB of r13 with write-back; the bit R names r14. -/
def execTPush (lr : Bool) (list : BitVec 8) (s : State) : Outcome :=
  storeMultiple true false false true 13#4 (0b0#1 ++ BitVec.ofBool lr ++ 0#6 ++ list) s

/-- POP (R268): LDMIA of r13 with write-back; the bit R names r15. -/
def execTPop (pc : Bool) (list : BitVec 8) (s : State) : Outcome :=
  loadMultiple false true false true 13#4 (BitVec.ofBool pc ++ 0#7 ++ list) s

/-- Thumb STMIA (R269). -/
def execTStmia (rb : Reg) (list : BitVec 8) (s : State) : Outcome :=
  storeMultiple false true false true rb (0#8 ++ list) s

/-- Thumb LDMIA (R270). -/
def execTLdmia (rb : Reg) (list : BitVec 8) (s : State) : Outcome :=
  loadMultiple false true false true rb (0#8 ++ list) s

end Sys2Proof.Machine
end

