-- ==== Sys2Proof/Machine/Branch.lean ====
section
/-! DEFINITION. Branches, software interrupts, the coprocessor stubs and the UNDEFINED encodings, ARM and Thumb
(spec/46_arm_branch_status_system.md R190 to R192, R199 to R207, spec/49_thumb_branch.md, spec/47_thumb_alu.md R241). -/

namespace Sys2Proof.Machine

/-- BX in both sets (R192, R241): bit 0 selects the set, and the target is aligned by the set it selects. -/
def branchExchange (v : Word) (s : State) : Outcome :=
  (((Run.start s).map fun t => t.setCpsr (Psr.withT t.cpsr (v.getLsbD 0))).jump v).finish s.params.cycles.branch

/-- A Thumb branch target's distance: a signed halfword offset (R280, R284). -/
def thumbOffset (n : Nat) (off : BitVec n) : Word := off.signExtend 32 <<< 1

/-- Format 16: the condition is tested here, and an untaken branch costs nothing (R280, R343). -/
def thumbCondBranch (c : Cond) (soffset8 : BitVec 8) (s : State) : Outcome :=
  if conditionPassed c s.cpsr then
    ((Run.start s).jump (s.pc + 4#32 + thumbOffset 8 soffset8)).finish s.params.cycles.branch
  else noEffect s 0

/-! ## ARM -/

/-- B (R190). -/
def execB (imm24 : BitVec 24) (s : State) : Outcome :=
  ((Run.start s).jump (s.pc + 8#32 + branchOffset imm24)).finish s.params.cycles.branch

/-- BL (R191): the link is the address of the next instruction. -/
def execBl (imm24 : BitVec 24) (s : State) : Outcome :=
  (((Run.start s).setX 14#4 (s.pc + 4#32)).jump (s.pc + 8#32 + branchOffset imm24)).finish s.params.cycles.branchLink

/-- BX (R192). -/
def execBx (rm : Reg) (s : State) : Outcome :=
  branchExchange (s.xop rm) s

/-- SWI (R199). The comment field is not read. -/
def execSwi (s : State) : Outcome :=
  softwareInterrupt s (s.pc + 4#32)

/-- STC (R202): no coprocessor is attached (R203). -/
def execStc (s : State) : Outcome :=
  unimplementedInstr s

/-- LDC (R201): no coprocessor is attached (R203). -/
def execLdc (s : State) : Outcome :=
  unimplementedInstr s

/-- CDP (R200): no coprocessor is attached (R203). -/
def execCdp (s : State) : Outcome :=
  unimplementedInstr s

/-- MCR (R206): no coprocessor is attached (R203). -/
def execMcr (s : State) : Outcome :=
  unimplementedInstr s

/-- MRC (R207): no coprocessor is attached (R203). -/
def execMrc (s : State) : Outcome :=
  unimplementedInstr s

/-- UNDEFINED (R204): multiply space, bits 27:22 = 000001. -/
def execUndefMulSpace (s : State) : Outcome :=
  unimplementedInstr s

/-- UNDEFINED (R204): swap space with bit 23 set. -/
def execUndefSwapBit23 (s : State) : Outcome :=
  unimplementedInstr s

/-- UNDEFINED (R204): swap space with bit 20 set. -/
def execUndefSwapBit20 (s : State) : Outcome :=
  unimplementedInstr s

/-- UNDEFINED (R204): swap space with bit 21 set. -/
def execUndefSwapBit21 (s : State) : Outcome :=
  unimplementedInstr s

/-- UNDEFINED (R204): halfword space with L = 0 and S = 1 (LDRD, STRD of later architectures). -/
def execUndefHalfStore (s : State) : Outcome :=
  unimplementedInstr s

/-- UNDEFINED (R204): opcode 10xx with S = 0, bits 7 and 4 = 1, 0. -/
def execUndefTestBit7 (s : State) : Outcome :=
  unimplementedInstr s

/-- UNDEFINED (R204): opcode 10xx with S = 0, bits 7:6 = 01, bit 4 = 0. -/
def execUndefTestLsl01 (s : State) : Outcome :=
  unimplementedInstr s

/-- UNDEFINED (R204): opcode 10xx with S = 0, bits 7:4 = 0010. -/
def execUndefTestLo2 (s : State) : Outcome :=
  unimplementedInstr s

/-- UNDEFINED (R204): opcode 10xx with S = 0, bits 7:6 = 01, bit 4 = 1. -/
def execUndefTestBit6Reg (s : State) : Outcome :=
  unimplementedInstr s

/-- UNDEFINED (R204): opcode 10xx with S = 0, bits 7:4 = 0011 (BLX register of later architectures at 0x0123). -/
def execUndefTestLo3 (s : State) : Outcome :=
  unimplementedInstr s

/-- UNDEFINED (R204): bits 27:20 = 00010000 or 00010100, bits 7:4 = 0001. -/
def execUndefMrsLo1 (s : State) : Outcome :=
  unimplementedInstr s

/-- UNDEFINED (R204): bits 27:20 = 00010110, bits 7:4 = 0001 (CLZ of later architectures). -/
def execUndefMsrSpsrLo1 (s : State) : Outcome :=
  unimplementedInstr s

/-- UNDEFINED (R204): immediate form of opcode 1000 or 1010 with S = 0. -/
def execUndefTestImm (s : State) : Outcome :=
  unimplementedInstr s

/-- UNDEFINED (R204): register-offset transfer space with bit 4 set. -/
def execUndefRegOffsetBit4 (s : State) : Outcome :=
  unimplementedInstr s

/-! ## Thumb -/

/-- BX (R241). H1 is not read. -/
def execTBx (src : Reg) (s : State) : Outcome :=
  branchExchange (s.xop src) s

/-- BEQ (R280). -/
def execTBeq (soffset8 : BitVec 8) (s : State) : Outcome :=
  thumbCondBranch .eq soffset8 s

/-- BNE (R280). -/
def execTBne (soffset8 : BitVec 8) (s : State) : Outcome :=
  thumbCondBranch .ne soffset8 s

/-- BCS (R280). -/
def execTBcs (soffset8 : BitVec 8) (s : State) : Outcome :=
  thumbCondBranch .cs soffset8 s

/-- BCC (R280). -/
def execTBcc (soffset8 : BitVec 8) (s : State) : Outcome :=
  thumbCondBranch .cc soffset8 s

/-- BMI (R280). -/
def execTBmi (soffset8 : BitVec 8) (s : State) : Outcome :=
  thumbCondBranch .mi soffset8 s

/-- BPL (R280). -/
def execTBpl (soffset8 : BitVec 8) (s : State) : Outcome :=
  thumbCondBranch .pl soffset8 s

/-- BVS (R280). -/
def execTBvs (soffset8 : BitVec 8) (s : State) : Outcome :=
  thumbCondBranch .vs soffset8 s

/-- BVC (R280). -/
def execTBvc (soffset8 : BitVec 8) (s : State) : Outcome :=
  thumbCondBranch .vc soffset8 s

/-- BHI (R280). -/
def execTBhi (soffset8 : BitVec 8) (s : State) : Outcome :=
  thumbCondBranch .hi soffset8 s

/-- BLS (R280). -/
def execTBls (soffset8 : BitVec 8) (s : State) : Outcome :=
  thumbCondBranch .ls soffset8 s

/-- BGE (R280). -/
def execTBge (soffset8 : BitVec 8) (s : State) : Outcome :=
  thumbCondBranch .ge soffset8 s

/-- BLT (R280). -/
def execTBlt (soffset8 : BitVec 8) (s : State) : Outcome :=
  thumbCondBranch .lt soffset8 s

/-- BGT (R280). -/
def execTBgt (soffset8 : BitVec 8) (s : State) : Outcome :=
  thumbCondBranch .gt soffset8 s

/-- BLE (R280). -/
def execTBle (soffset8 : BitVec 8) (s : State) : Outcome :=
  thumbCondBranch .le soffset8 s

/-- Thumb SWI (R283). The comment field is not read. -/
def execTSwi (s : State) : Outcome :=
  softwareInterrupt s (s.pc + 2#32)

/-- B (R284). -/
def execTB (offset11 : BitVec 11) (s : State) : Outcome :=
  ((Run.start s).jump (s.pc + 4#32 + thumbOffset 11 offset11)).finish s.params.cycles.branch

/-- BL, first half (R285): r14 takes the high part of the target, and nothing branches. -/
def execTBlHigh (offset11 : BitVec 11) (s : State) : Outcome :=
  ((Run.start s).setX 14#4 (s.pc + 4#32 + (offset11.signExtend 32 <<< 12))).finish 0

/-- BL, second half (R286): the link has bit 0 set. -/
def execTBlLow (offset11 : BitVec 11) (s : State) : Outcome :=
  let target := s.x 14#4 + (offset11.setWidth 32 <<< 1)
  (((Run.start s).setX 14#4 ((s.pc + 2#32) ||| 1#32)).jump target).finish s.params.cycles.branchLink

/-- UNDEFINED (R288): 1011 0001. -/
def execTUndefB1 (s : State) : Outcome :=
  unimplementedInstr s

/-- UNDEFINED (R288): 1011 001x. -/
def execTUndefB2 (s : State) : Outcome :=
  unimplementedInstr s

/-- UNDEFINED (R288): 1011 011x. -/
def execTUndefB6 (s : State) : Outcome :=
  unimplementedInstr s

/-- UNDEFINED (R288): 1011 10xx. -/
def execTUndefB8 (s : State) : Outcome :=
  unimplementedInstr s

/-- UNDEFINED (R288): 1011 111x (BKPT of later architectures). -/
def execTUndefBe (s : State) : Outcome :=
  unimplementedInstr s

/-- UNDEFINED (R288): format 16 with cond = 1110. -/
def execTUndefDe (s : State) : Outcome :=
  unimplementedInstr s

/-- UNDEFINED (R288): 11101 (BLX suffix of later architectures). -/
def execTUndefE8 (s : State) : Outcome :=
  unimplementedInstr s

end Sys2Proof.Machine
end

