-- ==== Sys2Proof/Machine/DataProcessing.lean ====
section
/-! DEFINITION. The ARM data-processing instructions (spec/42_arm_data_processing.md): the common frame of R120 with the exception
return of R121, and one meaning per operation and operand form. -/

namespace Sys2Proof.Machine

/-- `DataProcessing` (R120, R121, R122) once the operands are read: `a` is Rn, `b` the shifter operand. -/
def dataProcessing (op : AluOp) (setFlags : Bool) (rd : Reg) (a : Word) (b : Shifted) (regShift : Bool) (s : State) : Outcome :=
  let o := op.eval a b.value b.carry (Psr.c s.cpsr) (Psr.v s.cpsr)
  let r := Run.start s
  if op.writesRd then
    let extra := s.aluCycles regShift (rd = 15#4)
    if setFlags && rd = 15#4 then finishOrFault ((r.map (·.setAluFlags o)).exceptionReturn o.r) extra
    else
      let r := r.setX rd o.r
      (if setFlags then r.map (·.setAluFlags o) else r).finish extra
  else (r.map (·.setAluFlags o)).finish (s.aluCycles regShift false)

/-- Format A1: a register shifted by an immediate amount. -/
def dpShiftImm (op : AluOp) (setFlags : Bool) (rn rd : Reg) (shiftImm : BitVec 5) (kind : ShiftKind) (rm : Reg) (s : State) : Outcome :=
  dataProcessing op setFlags rd (s.xop rn) (s.operandShiftImm shiftImm kind rm) false s

/-- Format A2: a register shifted by a register; r15 reads `PC_REGSHIFT_OFFSET` ahead (R88, R120). -/
def dpShiftReg (op : AluOp) (setFlags : Bool) (rn rd rs : Reg) (kind : ShiftKind) (rm : Reg) (s : State) : Outcome :=
  dataProcessing op setFlags rd (s.xopShiftReg rn) (s.operandShiftReg rs kind rm) true s

/-- Format A3: a rotated immediate. -/
def dpImm (op : AluOp) (setFlags : Bool) (rn rd : Reg) (rotate : BitVec 4) (imm8 : BitVec 8) (s : State) : Outcome :=
  dataProcessing op setFlags rd (s.xop rn) (s.operandImm rotate imm8) false s

/-- AND, format A1 (R123). -/
def execAndShiftImm (setFlags : Bool) (rn rd : Reg) (shiftImm : BitVec 5) (kind : ShiftKind) (rm : Reg) (s : State) : Outcome :=
  dpShiftImm .and setFlags rn rd shiftImm kind rm s

/-- AND, format A2 (R123). -/
def execAndShiftReg (setFlags : Bool) (rn rd rs : Reg) (kind : ShiftKind) (rm : Reg) (s : State) : Outcome :=
  dpShiftReg .and setFlags rn rd rs kind rm s

/-- AND, format A3 (R123). -/
def execAndImm (setFlags : Bool) (rn rd : Reg) (rotate : BitVec 4) (imm8 : BitVec 8) (s : State) : Outcome :=
  dpImm .and setFlags rn rd rotate imm8 s

/-- EOR, format A1 (R124). -/
def execEorShiftImm (setFlags : Bool) (rn rd : Reg) (shiftImm : BitVec 5) (kind : ShiftKind) (rm : Reg) (s : State) : Outcome :=
  dpShiftImm .eor setFlags rn rd shiftImm kind rm s

/-- EOR, format A2 (R124). -/
def execEorShiftReg (setFlags : Bool) (rn rd rs : Reg) (kind : ShiftKind) (rm : Reg) (s : State) : Outcome :=
  dpShiftReg .eor setFlags rn rd rs kind rm s

/-- EOR, format A3 (R124). -/
def execEorImm (setFlags : Bool) (rn rd : Reg) (rotate : BitVec 4) (imm8 : BitVec 8) (s : State) : Outcome :=
  dpImm .eor setFlags rn rd rotate imm8 s

/-- SUB, format A1 (R125). -/
def execSubShiftImm (setFlags : Bool) (rn rd : Reg) (shiftImm : BitVec 5) (kind : ShiftKind) (rm : Reg) (s : State) : Outcome :=
  dpShiftImm .sub setFlags rn rd shiftImm kind rm s

/-- SUB, format A2 (R125). -/
def execSubShiftReg (setFlags : Bool) (rn rd rs : Reg) (kind : ShiftKind) (rm : Reg) (s : State) : Outcome :=
  dpShiftReg .sub setFlags rn rd rs kind rm s

/-- SUB, format A3 (R125). -/
def execSubImm (setFlags : Bool) (rn rd : Reg) (rotate : BitVec 4) (imm8 : BitVec 8) (s : State) : Outcome :=
  dpImm .sub setFlags rn rd rotate imm8 s

/-- RSB, format A1 (R126). -/
def execRsbShiftImm (setFlags : Bool) (rn rd : Reg) (shiftImm : BitVec 5) (kind : ShiftKind) (rm : Reg) (s : State) : Outcome :=
  dpShiftImm .rsb setFlags rn rd shiftImm kind rm s

/-- RSB, format A2 (R126). -/
def execRsbShiftReg (setFlags : Bool) (rn rd rs : Reg) (kind : ShiftKind) (rm : Reg) (s : State) : Outcome :=
  dpShiftReg .rsb setFlags rn rd rs kind rm s

/-- RSB, format A3 (R126). -/
def execRsbImm (setFlags : Bool) (rn rd : Reg) (rotate : BitVec 4) (imm8 : BitVec 8) (s : State) : Outcome :=
  dpImm .rsb setFlags rn rd rotate imm8 s

/-- ADD, format A1 (R127). -/
def execAddShiftImm (setFlags : Bool) (rn rd : Reg) (shiftImm : BitVec 5) (kind : ShiftKind) (rm : Reg) (s : State) : Outcome :=
  dpShiftImm .add setFlags rn rd shiftImm kind rm s

/-- ADD, format A2 (R127). -/
def execAddShiftReg (setFlags : Bool) (rn rd rs : Reg) (kind : ShiftKind) (rm : Reg) (s : State) : Outcome :=
  dpShiftReg .add setFlags rn rd rs kind rm s

/-- ADD, format A3 (R127). -/
def execAddImm (setFlags : Bool) (rn rd : Reg) (rotate : BitVec 4) (imm8 : BitVec 8) (s : State) : Outcome :=
  dpImm .add setFlags rn rd rotate imm8 s

/-- ADC, format A1 (R128). -/
def execAdcShiftImm (setFlags : Bool) (rn rd : Reg) (shiftImm : BitVec 5) (kind : ShiftKind) (rm : Reg) (s : State) : Outcome :=
  dpShiftImm .adc setFlags rn rd shiftImm kind rm s

/-- ADC, format A2 (R128). -/
def execAdcShiftReg (setFlags : Bool) (rn rd rs : Reg) (kind : ShiftKind) (rm : Reg) (s : State) : Outcome :=
  dpShiftReg .adc setFlags rn rd rs kind rm s

/-- ADC, format A3 (R128). -/
def execAdcImm (setFlags : Bool) (rn rd : Reg) (rotate : BitVec 4) (imm8 : BitVec 8) (s : State) : Outcome :=
  dpImm .adc setFlags rn rd rotate imm8 s

/-- SBC, format A1 (R129). -/
def execSbcShiftImm (setFlags : Bool) (rn rd : Reg) (shiftImm : BitVec 5) (kind : ShiftKind) (rm : Reg) (s : State) : Outcome :=
  dpShiftImm .sbc setFlags rn rd shiftImm kind rm s

/-- SBC, format A2 (R129). -/
def execSbcShiftReg (setFlags : Bool) (rn rd rs : Reg) (kind : ShiftKind) (rm : Reg) (s : State) : Outcome :=
  dpShiftReg .sbc setFlags rn rd rs kind rm s

/-- SBC, format A3 (R129). -/
def execSbcImm (setFlags : Bool) (rn rd : Reg) (rotate : BitVec 4) (imm8 : BitVec 8) (s : State) : Outcome :=
  dpImm .sbc setFlags rn rd rotate imm8 s

/-- RSC, format A1 (R130). -/
def execRscShiftImm (setFlags : Bool) (rn rd : Reg) (shiftImm : BitVec 5) (kind : ShiftKind) (rm : Reg) (s : State) : Outcome :=
  dpShiftImm .rsc setFlags rn rd shiftImm kind rm s

/-- RSC, format A2 (R130). -/
def execRscShiftReg (setFlags : Bool) (rn rd rs : Reg) (kind : ShiftKind) (rm : Reg) (s : State) : Outcome :=
  dpShiftReg .rsc setFlags rn rd rs kind rm s

/-- RSC, format A3 (R130). -/
def execRscImm (setFlags : Bool) (rn rd : Reg) (rotate : BitVec 4) (imm8 : BitVec 8) (s : State) : Outcome :=
  dpImm .rsc setFlags rn rd rotate imm8 s

/-- TST, format A1 (R131). -/
def execTstShiftImm (rn rd : Reg) (shiftImm : BitVec 5) (kind : ShiftKind) (rm : Reg) (s : State) : Outcome :=
  dpShiftImm .tst true rn rd shiftImm kind rm s

/-- TST, format A2 (R131). -/
def execTstShiftReg (rn rd rs : Reg) (kind : ShiftKind) (rm : Reg) (s : State) : Outcome :=
  dpShiftReg .tst true rn rd rs kind rm s

/-- TST, format A3 (R131). -/
def execTstImm (rn rd : Reg) (rotate : BitVec 4) (imm8 : BitVec 8) (s : State) : Outcome :=
  dpImm .tst true rn rd rotate imm8 s

/-- TEQ, format A1 (R132). -/
def execTeqShiftImm (rn rd : Reg) (shiftImm : BitVec 5) (kind : ShiftKind) (rm : Reg) (s : State) : Outcome :=
  dpShiftImm .teq true rn rd shiftImm kind rm s

/-- TEQ, format A2 (R132). -/
def execTeqShiftReg (rn rd rs : Reg) (kind : ShiftKind) (rm : Reg) (s : State) : Outcome :=
  dpShiftReg .teq true rn rd rs kind rm s

/-- TEQ, format A3 (R132). -/
def execTeqImm (rn rd : Reg) (rotate : BitVec 4) (imm8 : BitVec 8) (s : State) : Outcome :=
  dpImm .teq true rn rd rotate imm8 s

/-- CMP, format A1 (R133). -/
def execCmpShiftImm (rn rd : Reg) (shiftImm : BitVec 5) (kind : ShiftKind) (rm : Reg) (s : State) : Outcome :=
  dpShiftImm .cmp true rn rd shiftImm kind rm s

/-- CMP, format A2 (R133). -/
def execCmpShiftReg (rn rd rs : Reg) (kind : ShiftKind) (rm : Reg) (s : State) : Outcome :=
  dpShiftReg .cmp true rn rd rs kind rm s

/-- CMP, format A3 (R133). -/
def execCmpImm (rn rd : Reg) (rotate : BitVec 4) (imm8 : BitVec 8) (s : State) : Outcome :=
  dpImm .cmp true rn rd rotate imm8 s

/-- CMN, format A1 (R134). -/
def execCmnShiftImm (rn rd : Reg) (shiftImm : BitVec 5) (kind : ShiftKind) (rm : Reg) (s : State) : Outcome :=
  dpShiftImm .cmn true rn rd shiftImm kind rm s

/-- CMN, format A2 (R134). -/
def execCmnShiftReg (rn rd rs : Reg) (kind : ShiftKind) (rm : Reg) (s : State) : Outcome :=
  dpShiftReg .cmn true rn rd rs kind rm s

/-- CMN, format A3 (R134). -/
def execCmnImm (rn rd : Reg) (rotate : BitVec 4) (imm8 : BitVec 8) (s : State) : Outcome :=
  dpImm .cmn true rn rd rotate imm8 s

/-- ORR, format A1 (R135). -/
def execOrrShiftImm (setFlags : Bool) (rn rd : Reg) (shiftImm : BitVec 5) (kind : ShiftKind) (rm : Reg) (s : State) : Outcome :=
  dpShiftImm .orr setFlags rn rd shiftImm kind rm s

/-- ORR, format A2 (R135). -/
def execOrrShiftReg (setFlags : Bool) (rn rd rs : Reg) (kind : ShiftKind) (rm : Reg) (s : State) : Outcome :=
  dpShiftReg .orr setFlags rn rd rs kind rm s

/-- ORR, format A3 (R135). -/
def execOrrImm (setFlags : Bool) (rn rd : Reg) (rotate : BitVec 4) (imm8 : BitVec 8) (s : State) : Outcome :=
  dpImm .orr setFlags rn rd rotate imm8 s

/-- MOV, format A1 (R136). -/
def execMovShiftImm (setFlags : Bool) (rn rd : Reg) (shiftImm : BitVec 5) (kind : ShiftKind) (rm : Reg) (s : State) : Outcome :=
  dpShiftImm .mov setFlags rn rd shiftImm kind rm s

/-- MOV, format A2 (R136). -/
def execMovShiftReg (setFlags : Bool) (rn rd rs : Reg) (kind : ShiftKind) (rm : Reg) (s : State) : Outcome :=
  dpShiftReg .mov setFlags rn rd rs kind rm s

/-- MOV, format A3 (R136). -/
def execMovImm (setFlags : Bool) (rn rd : Reg) (rotate : BitVec 4) (imm8 : BitVec 8) (s : State) : Outcome :=
  dpImm .mov setFlags rn rd rotate imm8 s

/-- BIC, format A1 (R137). -/
def execBicShiftImm (setFlags : Bool) (rn rd : Reg) (shiftImm : BitVec 5) (kind : ShiftKind) (rm : Reg) (s : State) : Outcome :=
  dpShiftImm .bic setFlags rn rd shiftImm kind rm s

/-- BIC, format A2 (R137). -/
def execBicShiftReg (setFlags : Bool) (rn rd rs : Reg) (kind : ShiftKind) (rm : Reg) (s : State) : Outcome :=
  dpShiftReg .bic setFlags rn rd rs kind rm s

/-- BIC, format A3 (R137). -/
def execBicImm (setFlags : Bool) (rn rd : Reg) (rotate : BitVec 4) (imm8 : BitVec 8) (s : State) : Outcome :=
  dpImm .bic setFlags rn rd rotate imm8 s

/-- MVN, format A1 (R138). -/
def execMvnShiftImm (setFlags : Bool) (rn rd : Reg) (shiftImm : BitVec 5) (kind : ShiftKind) (rm : Reg) (s : State) : Outcome :=
  dpShiftImm .mvn setFlags rn rd shiftImm kind rm s

/-- MVN, format A2 (R138). -/
def execMvnShiftReg (setFlags : Bool) (rn rd rs : Reg) (kind : ShiftKind) (rm : Reg) (s : State) : Outcome :=
  dpShiftReg .mvn setFlags rn rd rs kind rm s

/-- MVN, format A3 (R138). -/
def execMvnImm (setFlags : Bool) (rn rd : Reg) (rotate : BitVec 4) (imm8 : BitVec 8) (s : State) : Outcome :=
  dpImm .mvn setFlags rn rd rotate imm8 s

end Sys2Proof.Machine
end

