-- ==== Sys2Proof/Machine/LoadStore.lean ====
section
/-! DEFINITION. The ARM single data transfers, halfword and signed transfers, and swap (spec/44_arm_load_store.md). A base or an
offset register 15 reads `pc + 8` (R88, R166); a load's destination 15 is a `pc` write (R90). -/

namespace Sys2Proof.Machine

/-- The write-back of R160 and R170: for Rn = 15 a `pc` write (R166). -/
def Run.writeBack (r : Run) (rn : Reg) (a : Addressed) : Run :=
  if a.writeBack then r.setX rn a.newBase else r

/-- A load once its access is made: the base is written back, then Rd is written, so that a destination equal to the
base holds the loaded value (R161, R166). -/
def loadTransfer (rn rd : Reg) (a : Addressed) (m : Access) (s : State) : Outcome :=
  ((((Run.start s).map (·.called m.call)).writeBack rn a).setX rd m.value).finish (s.loadCycles (rd = 15#4))

/-- A halfword load: refused at an odd address under `MISALIGNED_HALFWORD = refuse` (R45). -/
def loadHalfTransfer (rn rd : Reg) (a : Addressed) (m : Access) (s : State) : Outcome :=
  if s.refusesHalf a.addr then .refused .misalignedHalfword else loadTransfer rn rd a m s

/-- A store, then the write-back: the value stored is read before the base changes (R162, R166). -/
def storeTransfer (rn : Reg) (a : Addressed) (stored : State) (s : State) : Outcome :=
  (({ Run.start s with st := stored } : Run).writeBack rn a).finish s.params.cycles.store

/-! ## Words and bytes -/

/-- STR, immediate offset, offset or pre-indexed (R162). -/
def execStrImmPre (u w : Bool) (rn rd : Reg) (imm12 : BitVec 12) (s : State) : Outcome :=
  let a := s.addressImm true u w rn imm12
  storeTransfer rn a (s.storeWord a.addr (s.storeValue rd)) s

/-- STR, immediate offset, post-indexed (R162). -/
def execStrImmPost (u : Bool) (rn rd : Reg) (imm12 : BitVec 12) (s : State) : Outcome :=
  let a := s.addressImm false u false rn imm12
  storeTransfer rn a (s.storeWord a.addr (s.storeValue rd)) s

/-- STRT, immediate offset, post-indexed; it acts as the form without T (R165, R54). -/
def execStrtImm (u : Bool) (rn rd : Reg) (imm12 : BitVec 12) (s : State) : Outcome :=
  let a := s.addressImm false u true rn imm12
  storeTransfer rn a (s.storeWord a.addr (s.storeValue rd)) s

/-- STR, register offset, offset or pre-indexed (R162). -/
def execStrRegPre (u w : Bool) (rn rd : Reg) (shiftImm : BitVec 5) (kind : ShiftKind) (rm : Reg) (s : State) : Outcome :=
  let a := s.addressReg true u w rn shiftImm kind rm
  storeTransfer rn a (s.storeWord a.addr (s.storeValue rd)) s

/-- STR, register offset, post-indexed (R162). -/
def execStrRegPost (u : Bool) (rn rd : Reg) (shiftImm : BitVec 5) (kind : ShiftKind) (rm : Reg) (s : State) : Outcome :=
  let a := s.addressReg false u false rn shiftImm kind rm
  storeTransfer rn a (s.storeWord a.addr (s.storeValue rd)) s

/-- STRT, register offset, post-indexed; it acts as the form without T (R165, R54). -/
def execStrtReg (u : Bool) (rn rd : Reg) (shiftImm : BitVec 5) (kind : ShiftKind) (rm : Reg) (s : State) : Outcome :=
  let a := s.addressReg false u true rn shiftImm kind rm
  storeTransfer rn a (s.storeWord a.addr (s.storeValue rd)) s

/-- LDR, immediate offset, offset or pre-indexed (R161). -/
def execLdrImmPre (u w : Bool) (rn rd : Reg) (imm12 : BitVec 12) (s : State) : Outcome :=
  let a := s.addressImm true u w rn imm12
  loadTransfer rn rd a (s.loadWord a.addr) s

/-- LDR, immediate offset, post-indexed (R161). -/
def execLdrImmPost (u : Bool) (rn rd : Reg) (imm12 : BitVec 12) (s : State) : Outcome :=
  let a := s.addressImm false u false rn imm12
  loadTransfer rn rd a (s.loadWord a.addr) s

/-- LDRT, immediate offset, post-indexed; it acts as the form without T (R165, R54). -/
def execLdrtImm (u : Bool) (rn rd : Reg) (imm12 : BitVec 12) (s : State) : Outcome :=
  let a := s.addressImm false u true rn imm12
  loadTransfer rn rd a (s.loadWord a.addr) s

/-- LDR, register offset, offset or pre-indexed (R161). -/
def execLdrRegPre (u w : Bool) (rn rd : Reg) (shiftImm : BitVec 5) (kind : ShiftKind) (rm : Reg) (s : State) : Outcome :=
  let a := s.addressReg true u w rn shiftImm kind rm
  loadTransfer rn rd a (s.loadWord a.addr) s

/-- LDR, register offset, post-indexed (R161). -/
def execLdrRegPost (u : Bool) (rn rd : Reg) (shiftImm : BitVec 5) (kind : ShiftKind) (rm : Reg) (s : State) : Outcome :=
  let a := s.addressReg false u false rn shiftImm kind rm
  loadTransfer rn rd a (s.loadWord a.addr) s

/-- LDRT, register offset, post-indexed; it acts as the form without T (R165, R54). -/
def execLdrtReg (u : Bool) (rn rd : Reg) (shiftImm : BitVec 5) (kind : ShiftKind) (rm : Reg) (s : State) : Outcome :=
  let a := s.addressReg false u true rn shiftImm kind rm
  loadTransfer rn rd a (s.loadWord a.addr) s

/-- STRB, immediate offset, offset or pre-indexed (R164). -/
def execStrbImmPre (u w : Bool) (rn rd : Reg) (imm12 : BitVec 12) (s : State) : Outcome :=
  let a := s.addressImm true u w rn imm12
  storeTransfer rn a (s.storeByte a.addr (s.storeValue rd)) s

/-- STRB, immediate offset, post-indexed (R164). -/
def execStrbImmPost (u : Bool) (rn rd : Reg) (imm12 : BitVec 12) (s : State) : Outcome :=
  let a := s.addressImm false u false rn imm12
  storeTransfer rn a (s.storeByte a.addr (s.storeValue rd)) s

/-- STRBT, immediate offset, post-indexed; it acts as the form without T (R165, R54). -/
def execStrbtImm (u : Bool) (rn rd : Reg) (imm12 : BitVec 12) (s : State) : Outcome :=
  let a := s.addressImm false u true rn imm12
  storeTransfer rn a (s.storeByte a.addr (s.storeValue rd)) s

/-- STRB, register offset, offset or pre-indexed (R164). -/
def execStrbRegPre (u w : Bool) (rn rd : Reg) (shiftImm : BitVec 5) (kind : ShiftKind) (rm : Reg) (s : State) : Outcome :=
  let a := s.addressReg true u w rn shiftImm kind rm
  storeTransfer rn a (s.storeByte a.addr (s.storeValue rd)) s

/-- STRB, register offset, post-indexed (R164). -/
def execStrbRegPost (u : Bool) (rn rd : Reg) (shiftImm : BitVec 5) (kind : ShiftKind) (rm : Reg) (s : State) : Outcome :=
  let a := s.addressReg false u false rn shiftImm kind rm
  storeTransfer rn a (s.storeByte a.addr (s.storeValue rd)) s

/-- STRBT, register offset, post-indexed; it acts as the form without T (R165, R54). -/
def execStrbtReg (u : Bool) (rn rd : Reg) (shiftImm : BitVec 5) (kind : ShiftKind) (rm : Reg) (s : State) : Outcome :=
  let a := s.addressReg false u true rn shiftImm kind rm
  storeTransfer rn a (s.storeByte a.addr (s.storeValue rd)) s

/-- LDRB, immediate offset, offset or pre-indexed (R163). -/
def execLdrbImmPre (u w : Bool) (rn rd : Reg) (imm12 : BitVec 12) (s : State) : Outcome :=
  let a := s.addressImm true u w rn imm12
  loadTransfer rn rd a (s.loadByte a.addr) s

/-- LDRB, immediate offset, post-indexed (R163). -/
def execLdrbImmPost (u : Bool) (rn rd : Reg) (imm12 : BitVec 12) (s : State) : Outcome :=
  let a := s.addressImm false u false rn imm12
  loadTransfer rn rd a (s.loadByte a.addr) s

/-- LDRBT, immediate offset, post-indexed; it acts as the form without T (R165, R54). -/
def execLdrbtImm (u : Bool) (rn rd : Reg) (imm12 : BitVec 12) (s : State) : Outcome :=
  let a := s.addressImm false u true rn imm12
  loadTransfer rn rd a (s.loadByte a.addr) s

/-- LDRB, register offset, offset or pre-indexed (R163). -/
def execLdrbRegPre (u w : Bool) (rn rd : Reg) (shiftImm : BitVec 5) (kind : ShiftKind) (rm : Reg) (s : State) : Outcome :=
  let a := s.addressReg true u w rn shiftImm kind rm
  loadTransfer rn rd a (s.loadByte a.addr) s

/-- LDRB, register offset, post-indexed (R163). -/
def execLdrbRegPost (u : Bool) (rn rd : Reg) (shiftImm : BitVec 5) (kind : ShiftKind) (rm : Reg) (s : State) : Outcome :=
  let a := s.addressReg false u false rn shiftImm kind rm
  loadTransfer rn rd a (s.loadByte a.addr) s

/-- LDRBT, register offset, post-indexed; it acts as the form without T (R165, R54). -/
def execLdrbtReg (u : Bool) (rn rd : Reg) (shiftImm : BitVec 5) (kind : ShiftKind) (rm : Reg) (s : State) : Outcome :=
  let a := s.addressReg false u true rn shiftImm kind rm
  loadTransfer rn rd a (s.loadByte a.addr) s

/-! ## Halfwords and signed bytes -/

/-- STRH, register offset (R172). -/
def execStrhReg (p u w : Bool) (rn rd rm : Reg) (s : State) : Outcome :=
  let a := s.addressHalfReg p u w rn rm
  storeTransfer rn a (s.storeHalf a.addr (s.storeValue rd)) s

/-- STRH, immediate offset (R172). -/
def execStrhImm (p u w : Bool) (rn rd : Reg) (immH immL : BitVec 4) (s : State) : Outcome :=
  let a := s.addressHalfImm p u w rn immH immL
  storeTransfer rn a (s.storeHalf a.addr (s.storeValue rd)) s

/-- LDRH, register offset (R171). -/
def execLdrhReg (p u w : Bool) (rn rd rm : Reg) (s : State) : Outcome :=
  let a := s.addressHalfReg p u w rn rm
  loadHalfTransfer rn rd a (s.loadHalf a.addr) s

/-- LDRH, immediate offset (R171). -/
def execLdrhImm (p u w : Bool) (rn rd : Reg) (immH immL : BitVec 4) (s : State) : Outcome :=
  let a := s.addressHalfImm p u w rn immH immL
  loadHalfTransfer rn rd a (s.loadHalf a.addr) s

/-- LDRSB, register offset (R173). -/
def execLdrsbReg (p u w : Bool) (rn rd rm : Reg) (s : State) : Outcome :=
  let a := s.addressHalfReg p u w rn rm
  loadTransfer rn rd a (s.loadSignedByte a.addr) s

/-- LDRSB, immediate offset (R173). -/
def execLdrsbImm (p u w : Bool) (rn rd : Reg) (immH immL : BitVec 4) (s : State) : Outcome :=
  let a := s.addressHalfImm p u w rn immH immL
  loadTransfer rn rd a (s.loadSignedByte a.addr) s

/-- LDRSH, register offset (R174). -/
def execLdrshReg (p u w : Bool) (rn rd rm : Reg) (s : State) : Outcome :=
  let a := s.addressHalfReg p u w rn rm
  loadHalfTransfer rn rd a (s.loadSignedHalf a.addr) s

/-- LDRSH, immediate offset (R174). -/
def execLdrshImm (p u w : Bool) (rn rd : Reg) (immH immL : BitVec 4) (s : State) : Outcome :=
  let a := s.addressHalfImm p u w rn immH immL
  loadHalfTransfer rn rd a (s.loadSignedHalf a.addr) s

/-! ## Swap -/

/-- A swap: the read, then the store of the value read from Rm before, then Rd (R176, R177, R52). -/
def swapTransfer (rd : Reg) (m : Access) (store : State → State) (s : State) : Outcome :=
  (((((Run.start s).map (·.called m.call)).map store)).setX rd m.value).finish s.params.cycles.swap

/-- SWP (R176). -/
def execSwp (rn rd rm : Reg) (s : State) : Outcome :=
  let a := s.xop rn
  let v := s.xop rm
  swapTransfer rd (s.loadWord a) (·.storeWord a v) s

/-- SWPB (R177). -/
def execSwpb (rn rd rm : Reg) (s : State) : Outcome :=
  let a := s.xop rn
  let v := s.xop rm
  swapTransfer rd (s.loadByte a) (·.storeByte a v) s

end Sys2Proof.Machine
end

