-- ==== Sys2Proof/Machine/Multiply.lean ====
section
/-! DEFINITION. The ARM multiplies (spec/43_arm_multiply.md). A register field 15 reads `pc + 8` and, as a destination, is a `pc`
write (R88, R157); every source is read before a destination is written (R150, R91). -/

namespace Sys2Proof.Machine

/-- A 32-bit multiply's result written, with the flags of R150 when S is set. -/
def multiplyShort (setFlags : Bool) (rd : Reg) (result : Word) (extra : Nat) (s : State) : Outcome :=
  let r := (Run.start s).setX rd result
  (if setFlags then r.map (·.setMulFlags (result.getLsbD 31) (result == 0#32)) else r).finish extra

/-- A 64-bit multiply's result written, the low word first (R153, R157), with the flags of R150 when S is set. -/
def multiplyLong (setFlags : Bool) (rdHi rdLo : Reg) (p : BitVec 64) (extra : Nat) (s : State) : Outcome :=
  let r := ((Run.start s).setX rdLo (p.extractLsb' 0 32)).setX rdHi (p.extractLsb' 32 32)
  (if setFlags then r.map (·.setMulFlags (p.getLsbD 63) (p == 0#64)) else r).finish extra

/-- The accumulator of the long accumulating multiplies: `x[RdHi] : x[RdLo]` (R154, R156). -/
def State.accumulator (s : State) (rdHi rdLo : Reg) : BitVec 64 := s.xop rdHi ++ s.xop rdLo

/-- The exact product of two words as unsigned numbers (R153). -/
def productUnsigned (a b : Word) : BitVec 64 := a.setWidth 64 * b.setWidth 64

/-- The product of two words as signed numbers, 64 bits (R155). -/
def productSigned (a b : Word) : BitVec 64 := a.signExtend 64 * b.signExtend 64

/-- MUL (R151). The field Rn is ignored. -/
def execMul (setFlags : Bool) (rd rs rm : Reg) (s : State) : Outcome :=
  multiplyShort setFlags rd (s.xop rm * s.xop rs) (multiplierCycles (s.xop rs) true + s.params.cycles.mul) s

/-- MLA (R152). -/
def execMla (setFlags : Bool) (rd rn rs rm : Reg) (s : State) : Outcome :=
  multiplyShort setFlags rd (s.xop rm * s.xop rs + s.xop rn) (multiplierCycles (s.xop rs) true + s.params.cycles.mla) s

/-- UMULL (R153). -/
def execUmull (setFlags : Bool) (rdHi rdLo rs rm : Reg) (s : State) : Outcome :=
  multiplyLong setFlags rdHi rdLo (productUnsigned (s.xop rm) (s.xop rs))
    (multiplierCycles (s.xop rs) false + s.params.cycles.mull) s

/-- UMLAL (R154). -/
def execUmlal (setFlags : Bool) (rdHi rdLo rs rm : Reg) (s : State) : Outcome :=
  multiplyLong setFlags rdHi rdLo (productUnsigned (s.xop rm) (s.xop rs) + s.accumulator rdHi rdLo)
    (multiplierCycles (s.xop rs) false + s.params.cycles.mlal) s

/-- SMULL (R155). -/
def execSmull (setFlags : Bool) (rdHi rdLo rs rm : Reg) (s : State) : Outcome :=
  multiplyLong setFlags rdHi rdLo (productSigned (s.xop rm) (s.xop rs))
    (multiplierCycles (s.xop rs) true + s.params.cycles.mull) s

/-- SMLAL (R156). -/
def execSmlal (setFlags : Bool) (rdHi rdLo rs rm : Reg) (s : State) : Outcome :=
  multiplyLong setFlags rdHi rdLo (productSigned (s.xop rm) (s.xop rs) + s.accumulator rdHi rdLo)
    (multiplierCycles (s.xop rs) true + s.params.cycles.mlal) s

end Sys2Proof.Machine
end

