-- ==== Sys2Proof/Machine/Status.lean ====
section
/-! DEFINITION. The status-register transfers MRS and MSR (spec/46_arm_branch_status_system.md R194 to R197). -/

namespace Sys2Proof.Machine

/-- The bits MSR to CPSR writes (R196): not the control byte in User mode under `blocked`, and never T. -/
def State.msrCpsrMask (s : State) (mask : BitVec 4) : Word :=
  let m := msrMask mask
  let m := if Psr.mode s.cpsr = Mode.usr.bits ∧ s.params.msrUserControl = .blocked then m &&& 0xFFFFFF00#32 else m
  m &&& 0xFFFFFFDF#32

/-- A word with the masked bits taken from another. -/
def mergeBits (old v mask : Word) : Word := (old &&& ~~~mask) ||| (v &&& mask)

/-- MSR to CPSR (R196): the mode is resolved when the low byte may have changed (R17). -/
def msrToCpsr (mask : BitVec 4) (v : Word) (s : State) : Outcome :=
  let m := s.msrCpsrMask mask
  let t := s.setCpsr (mergeBits s.cpsr v m)
  let r := if m.extractLsb' 0 8 = 0#8 then .ok t else t.resolveMode
  match r with
  | .ok t => Run.finish { Run.start s with st := t } s.params.cycles.status
  | .error f => .fault f

/-- MSR to SPSR (R197): nothing in User and System mode, where the SPSR write does nothing (R21). -/
def msrToSpsr (mask : BitVec 4) (v : Word) (s : State) : Outcome :=
  ((Run.start s).map fun t => t.setSpsrCur (mergeBits t.spsrCur v (msrMask mask))).finish s.params.cycles.status

/-- MRS (R194). -/
def execMrs (spsr : Bool) (rd : Reg) (s : State) : Outcome :=
  ((Run.start s).setX rd (if spsr then s.spsrCur else s.cpsr)).finish s.params.cycles.status

/-- MSR CPSR, register (R195, R196). -/
def execMsrCpsrReg (mask : BitVec 4) (rm : Reg) (s : State) : Outcome :=
  msrToCpsr mask (s.xop rm) s

/-- MSR SPSR, register (R195, R197). -/
def execMsrSpsrReg (mask : BitVec 4) (rm : Reg) (s : State) : Outcome :=
  msrToSpsr mask (s.xop rm) s

/-- MSR CPSR, immediate (R195, R196). -/
def execMsrCpsrImm (mask rotate : BitVec 4) (imm8 : BitVec 8) (s : State) : Outcome :=
  msrToCpsr mask (rotatedImm rotate imm8) s

/-- MSR SPSR, immediate (R195, R197). -/
def execMsrSpsrImm (mask rotate : BitVec 4) (imm8 : BitVec 8) (s : State) : Outcome :=
  msrToSpsr mask (rotatedImm rotate imm8) s

end Sys2Proof.Machine
end

