-- ==== Sys2Proof/Machine/ThumbAlu.lean ====
section
/-! DEFINITION. The Thumb shift, arithmetic, logical, high-register and address instructions (spec/47_thumb_alu.md), as the
operations of R111 with the flags each rule names. -/

namespace Sys2Proof.Machine

/-- A value that went through no shift: the carry is C as it was (R222). -/
def State.plain (s : State) (v : Word) : Shifted := ⟨v, Psr.c s.cpsr⟩

/-- Formats 1: the amount is the immediate form of the shifter (R211). -/
def thumbShiftImm (kind : ShiftKind) (offset5 : BitVec 5) (rs rd : Reg) (s : State) : Outcome :=
  dataProcessing .mov true rd 0#32 (shift kind (s.x rs) offset5.toNat (Psr.c s.cpsr) .imm) false s

/-- Format 4 shifts: the amount is the low byte of Rs (R224). -/
def thumbShiftReg (kind : ShiftKind) (rs rd : Reg) (s : State) : Outcome :=
  dataProcessing .mov true rd 0#32
    (shift kind (s.x rd) ((s.x rs).extractLsb' 0 8).toNat (Psr.c s.cpsr) .reg) true s

/-- Every other flag-setting instruction: `a` is the first operand, `b` the second. -/
def thumbOp (op : AluOp) (rd : Reg) (a b : Word) (s : State) : Outcome :=
  dataProcessing op true rd a (s.plain b) false s

/-- The instructions that write a register and no flag; a write of r15 is a branch within Thumb state (R238, R240). -/
def thumbMove (rd : Reg) (v : Word) (s : State) : Outcome :=
  dataProcessing .mov false rd 0#32 (s.plain v) false s

/-- LSL Rd, Rs, #offset5 (R211). -/
def execTLslImm (offset5 : BitVec 5) (rs rd : Reg) (s : State) : Outcome :=
  thumbShiftImm .lsl offset5 rs rd s

/-- LSR Rd, Rs, #offset5 (R212). -/
def execTLsrImm (offset5 : BitVec 5) (rs rd : Reg) (s : State) : Outcome :=
  thumbShiftImm .lsr offset5 rs rd s

/-- ASR Rd, Rs, #offset5 (R213). -/
def execTAsrImm (offset5 : BitVec 5) (rs rd : Reg) (s : State) : Outcome :=
  thumbShiftImm .asr offset5 rs rd s

/-- ADD Rd, Rs, Rn (R214). -/
def execTAddReg (rn rs rd : Reg) (s : State) : Outcome :=
  thumbOp .add rd (s.x rs) (s.x rn) s

/-- SUB Rd, Rs, Rn (R215). -/
def execTSubReg (rn rs rd : Reg) (s : State) : Outcome :=
  thumbOp .sub rd (s.x rs) (s.x rn) s

/-- ADD Rd, Rs, #imm3 (R216). -/
def execTAddImm3 (imm3 : BitVec 3) (rs rd : Reg) (s : State) : Outcome :=
  thumbOp .add rd (s.x rs) (imm3.setWidth 32) s

/-- SUB Rd, Rs, #imm3 (R217). -/
def execTSubImm3 (imm3 : BitVec 3) (rs rd : Reg) (s : State) : Outcome :=
  thumbOp .sub rd (s.x rs) (imm3.setWidth 32) s

/-- MOV Rd, #imm8 (R218). -/
def execTMovImm8 (rd : Reg) (imm8 : BitVec 8) (s : State) : Outcome :=
  thumbOp .mov rd (s.x rd) (imm8.setWidth 32) s

/-- CMP Rd, #imm8 (R219). -/
def execTCmpImm8 (rd : Reg) (imm8 : BitVec 8) (s : State) : Outcome :=
  thumbOp .cmp rd (s.x rd) (imm8.setWidth 32) s

/-- ADD Rd, #imm8 (R220). -/
def execTAddImm8 (rd : Reg) (imm8 : BitVec 8) (s : State) : Outcome :=
  thumbOp .add rd (s.x rd) (imm8.setWidth 32) s

/-- SUB Rd, #imm8 (R221). -/
def execTSubImm8 (rd : Reg) (imm8 : BitVec 8) (s : State) : Outcome :=
  thumbOp .sub rd (s.x rd) (imm8.setWidth 32) s

/-- AND Rd, Rs (R222). -/
def execTAnd (rs rd : Reg) (s : State) : Outcome :=
  thumbOp .and rd (s.x rd) (s.x rs) s

/-- EOR Rd, Rs (R223). -/
def execTEor (rs rd : Reg) (s : State) : Outcome :=
  thumbOp .eor rd (s.x rd) (s.x rs) s

/-- LSL Rd, Rs (R224). -/
def execTLslReg (rs rd : Reg) (s : State) : Outcome :=
  thumbShiftReg .lsl rs rd s

/-- LSR Rd, Rs (R225). -/
def execTLsrReg (rs rd : Reg) (s : State) : Outcome :=
  thumbShiftReg .lsr rs rd s

/-- ASR Rd, Rs (R226). -/
def execTAsrReg (rs rd : Reg) (s : State) : Outcome :=
  thumbShiftReg .asr rs rd s

/-- ADC Rd, Rs (R227). -/
def execTAdc (rs rd : Reg) (s : State) : Outcome :=
  thumbOp .adc rd (s.x rd) (s.x rs) s

/-- SBC Rd, Rs (R228). -/
def execTSbc (rs rd : Reg) (s : State) : Outcome :=
  thumbOp .sbc rd (s.x rd) (s.x rs) s

/-- ROR Rd, Rs (R229). -/
def execTRor (rs rd : Reg) (s : State) : Outcome :=
  thumbShiftReg .ror rs rd s

/-- TST Rd, Rs (R230). -/
def execTTst (rs rd : Reg) (s : State) : Outcome :=
  thumbOp .tst rd (s.x rd) (s.x rs) s

/-- NEG Rd, Rs (R231): 0 - Rs. -/
def execTNeg (rs rd : Reg) (s : State) : Outcome :=
  thumbOp .rsb rd (s.x rs) 0#32 s

/-- CMP Rd, Rs (R232). -/
def execTCmpReg (rs rd : Reg) (s : State) : Outcome :=
  thumbOp .cmp rd (s.x rd) (s.x rs) s

/-- CMN Rd, Rs (R233). -/
def execTCmn (rs rd : Reg) (s : State) : Outcome :=
  thumbOp .cmn rd (s.x rd) (s.x rs) s

/-- ORR Rd, Rs (R234). -/
def execTOrr (rs rd : Reg) (s : State) : Outcome :=
  thumbOp .orr rd (s.x rd) (s.x rs) s

/-- MUL Rd, Rs (R235); the old Rd sets the count of cycles (R343). -/
def execTMul (rs rd : Reg) (s : State) : Outcome :=
  multiplyShort true rd (s.x rd * s.x rs) (multiplierCycles (s.x rd) true + s.params.cycles.mul) s

/-- BIC Rd, Rs (R236). -/
def execTBic (rs rd : Reg) (s : State) : Outcome :=
  thumbOp .bic rd (s.x rd) (s.x rs) s

/-- MVN Rd, Rs (R237). -/
def execTMvn (rs rd : Reg) (s : State) : Outcome :=
  thumbOp .mvn rd (s.x rd) (s.x rs) s

/-- ADD, high registers (R238): no flag changes. -/
def execTAddHi (src dst : Reg) (s : State) : Outcome :=
  thumbMove dst (s.xop dst + s.xop src) s

/-- CMP, high registers (R239). -/
def execTCmpHi (src dst : Reg) (s : State) : Outcome :=
  thumbOp .cmp dst (s.xop dst) (s.xop src) s

/-- MOV, high registers (R240): no flag changes. -/
def execTMovHi (src dst : Reg) (s : State) : Outcome :=
  thumbMove dst (s.xop src) s

/-- ADD Rd, PC, #imm (R242). -/
def execTAddPc (rd : Reg) (imm8 : BitVec 8) (s : State) : Outcome :=
  thumbMove rd (s.thumbPcBase + (imm8.setWidth 32 <<< 2)) s

/-- ADD Rd, SP, #imm (R243). -/
def execTAddSp (rd : Reg) (imm8 : BitVec 8) (s : State) : Outcome :=
  thumbMove rd (s.x 13#4 + (imm8.setWidth 32 <<< 2)) s

/-- ADD SP, #imm (R244). -/
def execTIncSp (imm7 : BitVec 7) (s : State) : Outcome :=
  thumbMove 13#4 (s.x 13#4 + (imm7.setWidth 32 <<< 2)) s

/-- SUB SP, #imm (R245). -/
def execTDecSp (imm7 : BitVec 7) (s : State) : Outcome :=
  thumbMove 13#4 (s.x 13#4 - (imm7.setWidth 32 <<< 2)) s

end Sys2Proof.Machine
end

