-- ==== Sys2Proof/Machine/ThumbLoadStore.lean ====
section
/-! DEFINITION. The Thumb single loads and stores (spec/48_thumb_load_store.md formats 6 to 11): the accesses of
spec/20_memory.md R43 to R45 at an address with no write-back. -/

namespace Sys2Proof.Machine

/-- An address that is not written back. -/
def plainAddress (addr : Word) : Addressed := ⟨addr, false, addr⟩

/-- A load with no write-back: no base is read or written, so the base register passed is of no effect. -/
def thumbLoad (rd : Reg) (addr : Word) (m : Access) (s : State) : Outcome := loadTransfer 0#4 rd (plainAddress addr) m s

/-- A halfword load with no write-back. -/
def thumbLoadHalf (rd : Reg) (addr : Word) (m : Access) (s : State) : Outcome :=
  loadHalfTransfer 0#4 rd (plainAddress addr) m s

/-- A store with no write-back. -/
def thumbStore (addr : Word) (stored : State) (s : State) : Outcome := storeTransfer 0#4 (plainAddress addr) stored s

/-- The address of formats 7 and 8. -/
def State.addressPair (s : State) (ro rb : Reg) : Word := s.x rb + s.x ro

/-- The address of formats 9 and 10: the offset counts units of the access's width. -/
def State.addressScaled (s : State) (offset5 : BitVec 5) (k : Nat) (rb : Reg) : Word :=
  s.x rb + (offset5.setWidth 32 <<< k)

/-- The address of format 11. -/
def State.addressSp (s : State) (imm8 : BitVec 8) : Word := s.x 13#4 + (imm8.setWidth 32 <<< 2)

/-- The address of format 6 (R250). -/
def State.addressPc (s : State) (imm8 : BitVec 8) : Word := s.thumbPcBase + (imm8.setWidth 32 <<< 2)

/-- LDR Rd, [PC, #imm] (R250). -/
def execTLdrPc (rd : Reg) (imm8 : BitVec 8) (s : State) : Outcome :=
  let a := s.addressPc imm8
  thumbLoad rd a (s.loadWord a) s

/-- STR Rd, [Rb, Ro] (R251). -/
def execTStrReg (ro rb rd : Reg) (s : State) : Outcome :=
  let a := s.addressPair ro rb
  thumbStore a (s.storeWord a (s.x rd)) s

/-- STRH Rd, [Rb, Ro] (R255). -/
def execTStrhReg (ro rb rd : Reg) (s : State) : Outcome :=
  let a := s.addressPair ro rb
  thumbStore a (s.storeHalf a (s.x rd)) s

/-- STRB Rd, [Rb, Ro] (R252). -/
def execTStrbReg (ro rb rd : Reg) (s : State) : Outcome :=
  let a := s.addressPair ro rb
  thumbStore a (s.storeByte a (s.x rd)) s

/-- LDSB Rd, [Rb, Ro] (R257). -/
def execTLdsbReg (ro rb rd : Reg) (s : State) : Outcome :=
  let a := s.addressPair ro rb
  thumbLoad rd a (s.loadSignedByte a) s

/-- LDR Rd, [Rb, Ro] (R253). -/
def execTLdrReg (ro rb rd : Reg) (s : State) : Outcome :=
  let a := s.addressPair ro rb
  thumbLoad rd a (s.loadWord a) s

/-- LDRH Rd, [Rb, Ro] (R256). -/
def execTLdrhReg (ro rb rd : Reg) (s : State) : Outcome :=
  let a := s.addressPair ro rb
  thumbLoadHalf rd a (s.loadHalf a) s

/-- LDRB Rd, [Rb, Ro] (R254). -/
def execTLdrbReg (ro rb rd : Reg) (s : State) : Outcome :=
  let a := s.addressPair ro rb
  thumbLoad rd a (s.loadByte a) s

/-- LDSH Rd, [Rb, Ro] (R258). -/
def execTLdshReg (ro rb rd : Reg) (s : State) : Outcome :=
  let a := s.addressPair ro rb
  thumbLoadHalf rd a (s.loadSignedHalf a) s

/-- STR Rd, [Rb, #imm] (R259). -/
def execTStrImm (offset5 : BitVec 5) (rb rd : Reg) (s : State) : Outcome :=
  let a := s.addressScaled offset5 2 rb
  thumbStore a (s.storeWord a (s.x rd)) s

/-- LDR Rd, [Rb, #imm] (R260). -/
def execTLdrImm (offset5 : BitVec 5) (rb rd : Reg) (s : State) : Outcome :=
  let a := s.addressScaled offset5 2 rb
  thumbLoad rd a (s.loadWord a) s

/-- STRB Rd, [Rb, #imm] (R261). -/
def execTStrbImm (offset5 : BitVec 5) (rb rd : Reg) (s : State) : Outcome :=
  let a := s.addressScaled offset5 0 rb
  thumbStore a (s.storeByte a (s.x rd)) s

/-- LDRB Rd, [Rb, #imm] (R262). -/
def execTLdrbImm (offset5 : BitVec 5) (rb rd : Reg) (s : State) : Outcome :=
  let a := s.addressScaled offset5 0 rb
  thumbLoad rd a (s.loadByte a) s

/-- STRH Rd, [Rb, #imm] (R263). -/
def execTStrhImm (offset5 : BitVec 5) (rb rd : Reg) (s : State) : Outcome :=
  let a := s.addressScaled offset5 1 rb
  thumbStore a (s.storeHalf a (s.x rd)) s

/-- LDRH Rd, [Rb, #imm] (R264). -/
def execTLdrhImm (offset5 : BitVec 5) (rb rd : Reg) (s : State) : Outcome :=
  let a := s.addressScaled offset5 1 rb
  thumbLoadHalf rd a (s.loadHalf a) s

/-- STR Rd, [SP, #imm] (R265). -/
def execTStrSp (rd : Reg) (imm8 : BitVec 8) (s : State) : Outcome :=
  let a := s.addressSp imm8
  thumbStore a (s.storeWord a (s.x rd)) s

/-- LDR Rd, [SP, #imm] (R266). -/
def execTLdrSp (rd : Reg) (imm8 : BitVec 8) (s : State) : Outcome :=
  let a := s.addressSp imm8
  thumbLoad rd a (s.loadWord a) s

end Sys2Proof.Machine
end

