-- ==== Sys2Proof/Machine/Dispatch.lean ====
section
/-! DEFINITION. Execute (spec/40_cycle_and_condition.md R89): the meaning of each instruction, one arm each. The condition
of an ARM instruction was tested when it was fetched (R83, R84), so the arms do not read it
(notes/assumptions/1.md). -/

namespace Sys2Proof.Machine

/-- Executes a staged instruction. -/
def exec (i : Instr) (s : State) : Host.Outcome State Fault Refusal :=
  match i with
  | .andShiftImm _ setFlags rn rd shiftImm kind rm => Sys2Proof.Machine.execAndShiftImm setFlags rn rd shiftImm kind rm s
  | .andShiftReg _ setFlags rn rd rs kind rm => Sys2Proof.Machine.execAndShiftReg setFlags rn rd rs kind rm s
  | .andImm _ setFlags rn rd rotate imm8 => Sys2Proof.Machine.execAndImm setFlags rn rd rotate imm8 s
  | .eorShiftImm _ setFlags rn rd shiftImm kind rm => Sys2Proof.Machine.execEorShiftImm setFlags rn rd shiftImm kind rm s
  | .eorShiftReg _ setFlags rn rd rs kind rm => Sys2Proof.Machine.execEorShiftReg setFlags rn rd rs kind rm s
  | .eorImm _ setFlags rn rd rotate imm8 => Sys2Proof.Machine.execEorImm setFlags rn rd rotate imm8 s
  | .subShiftImm _ setFlags rn rd shiftImm kind rm => Sys2Proof.Machine.execSubShiftImm setFlags rn rd shiftImm kind rm s
  | .subShiftReg _ setFlags rn rd rs kind rm => Sys2Proof.Machine.execSubShiftReg setFlags rn rd rs kind rm s
  | .subImm _ setFlags rn rd rotate imm8 => Sys2Proof.Machine.execSubImm setFlags rn rd rotate imm8 s
  | .rsbShiftImm _ setFlags rn rd shiftImm kind rm => Sys2Proof.Machine.execRsbShiftImm setFlags rn rd shiftImm kind rm s
  | .rsbShiftReg _ setFlags rn rd rs kind rm => Sys2Proof.Machine.execRsbShiftReg setFlags rn rd rs kind rm s
  | .rsbImm _ setFlags rn rd rotate imm8 => Sys2Proof.Machine.execRsbImm setFlags rn rd rotate imm8 s
  | .addShiftImm _ setFlags rn rd shiftImm kind rm => Sys2Proof.Machine.execAddShiftImm setFlags rn rd shiftImm kind rm s
  | .addShiftReg _ setFlags rn rd rs kind rm => Sys2Proof.Machine.execAddShiftReg setFlags rn rd rs kind rm s
  | .addImm _ setFlags rn rd rotate imm8 => Sys2Proof.Machine.execAddImm setFlags rn rd rotate imm8 s
  | .adcShiftImm _ setFlags rn rd shiftImm kind rm => Sys2Proof.Machine.execAdcShiftImm setFlags rn rd shiftImm kind rm s
  | .adcShiftReg _ setFlags rn rd rs kind rm => Sys2Proof.Machine.execAdcShiftReg setFlags rn rd rs kind rm s
  | .adcImm _ setFlags rn rd rotate imm8 => Sys2Proof.Machine.execAdcImm setFlags rn rd rotate imm8 s
  | .sbcShiftImm _ setFlags rn rd shiftImm kind rm => Sys2Proof.Machine.execSbcShiftImm setFlags rn rd shiftImm kind rm s
  | .sbcShiftReg _ setFlags rn rd rs kind rm => Sys2Proof.Machine.execSbcShiftReg setFlags rn rd rs kind rm s
  | .sbcImm _ setFlags rn rd rotate imm8 => Sys2Proof.Machine.execSbcImm setFlags rn rd rotate imm8 s
  | .rscShiftImm _ setFlags rn rd shiftImm kind rm => Sys2Proof.Machine.execRscShiftImm setFlags rn rd shiftImm kind rm s
  | .rscShiftReg _ setFlags rn rd rs kind rm => Sys2Proof.Machine.execRscShiftReg setFlags rn rd rs kind rm s
  | .rscImm _ setFlags rn rd rotate imm8 => Sys2Proof.Machine.execRscImm setFlags rn rd rotate imm8 s
  | .tstShiftImm _ rn rd shiftImm kind rm => Sys2Proof.Machine.execTstShiftImm rn rd shiftImm kind rm s
  | .tstShiftReg _ rn rd rs kind rm => Sys2Proof.Machine.execTstShiftReg rn rd rs kind rm s
  | .tstImm _ rn rd rotate imm8 => Sys2Proof.Machine.execTstImm rn rd rotate imm8 s
  | .teqShiftImm _ rn rd shiftImm kind rm => Sys2Proof.Machine.execTeqShiftImm rn rd shiftImm kind rm s
  | .teqShiftReg _ rn rd rs kind rm => Sys2Proof.Machine.execTeqShiftReg rn rd rs kind rm s
  | .teqImm _ rn rd rotate imm8 => Sys2Proof.Machine.execTeqImm rn rd rotate imm8 s
  | .cmpShiftImm _ rn rd shiftImm kind rm => Sys2Proof.Machine.execCmpShiftImm rn rd shiftImm kind rm s
  | .cmpShiftReg _ rn rd rs kind rm => Sys2Proof.Machine.execCmpShiftReg rn rd rs kind rm s
  | .cmpImm _ rn rd rotate imm8 => Sys2Proof.Machine.execCmpImm rn rd rotate imm8 s
  | .cmnShiftImm _ rn rd shiftImm kind rm => Sys2Proof.Machine.execCmnShiftImm rn rd shiftImm kind rm s
  | .cmnShiftReg _ rn rd rs kind rm => Sys2Proof.Machine.execCmnShiftReg rn rd rs kind rm s
  | .cmnImm _ rn rd rotate imm8 => Sys2Proof.Machine.execCmnImm rn rd rotate imm8 s
  | .orrShiftImm _ setFlags rn rd shiftImm kind rm => Sys2Proof.Machine.execOrrShiftImm setFlags rn rd shiftImm kind rm s
  | .orrShiftReg _ setFlags rn rd rs kind rm => Sys2Proof.Machine.execOrrShiftReg setFlags rn rd rs kind rm s
  | .orrImm _ setFlags rn rd rotate imm8 => Sys2Proof.Machine.execOrrImm setFlags rn rd rotate imm8 s
  | .movShiftImm _ setFlags rn rd shiftImm kind rm => Sys2Proof.Machine.execMovShiftImm setFlags rn rd shiftImm kind rm s
  | .movShiftReg _ setFlags rn rd rs kind rm => Sys2Proof.Machine.execMovShiftReg setFlags rn rd rs kind rm s
  | .movImm _ setFlags rn rd rotate imm8 => Sys2Proof.Machine.execMovImm setFlags rn rd rotate imm8 s
  | .bicShiftImm _ setFlags rn rd shiftImm kind rm => Sys2Proof.Machine.execBicShiftImm setFlags rn rd shiftImm kind rm s
  | .bicShiftReg _ setFlags rn rd rs kind rm => Sys2Proof.Machine.execBicShiftReg setFlags rn rd rs kind rm s
  | .bicImm _ setFlags rn rd rotate imm8 => Sys2Proof.Machine.execBicImm setFlags rn rd rotate imm8 s
  | .mvnShiftImm _ setFlags rn rd shiftImm kind rm => Sys2Proof.Machine.execMvnShiftImm setFlags rn rd shiftImm kind rm s
  | .mvnShiftReg _ setFlags rn rd rs kind rm => Sys2Proof.Machine.execMvnShiftReg setFlags rn rd rs kind rm s
  | .mvnImm _ setFlags rn rd rotate imm8 => Sys2Proof.Machine.execMvnImm setFlags rn rd rotate imm8 s
  | .mul _ setFlags rd _ rs rm => Sys2Proof.Machine.execMul setFlags rd rs rm s
  | .mla _ setFlags rd rn rs rm => Sys2Proof.Machine.execMla setFlags rd rn rs rm s
  | .umull _ setFlags rdHi rdLo rs rm => Sys2Proof.Machine.execUmull setFlags rdHi rdLo rs rm s
  | .umlal _ setFlags rdHi rdLo rs rm => Sys2Proof.Machine.execUmlal setFlags rdHi rdLo rs rm s
  | .smull _ setFlags rdHi rdLo rs rm => Sys2Proof.Machine.execSmull setFlags rdHi rdLo rs rm s
  | .smlal _ setFlags rdHi rdLo rs rm => Sys2Proof.Machine.execSmlal setFlags rdHi rdLo rs rm s
  | .swp _ rn rd rm => Sys2Proof.Machine.execSwp rn rd rm s
  | .swpb _ rn rd rm => Sys2Proof.Machine.execSwpb rn rd rm s
  | .strhReg _ p u w rn rd rm => Sys2Proof.Machine.execStrhReg p u w rn rd rm s
  | .strhImm _ p u w rn rd immH immL => Sys2Proof.Machine.execStrhImm p u w rn rd immH immL s
  | .ldrhReg _ p u w rn rd rm => Sys2Proof.Machine.execLdrhReg p u w rn rd rm s
  | .ldrhImm _ p u w rn rd immH immL => Sys2Proof.Machine.execLdrhImm p u w rn rd immH immL s
  | .ldrsbReg _ p u w rn rd rm => Sys2Proof.Machine.execLdrsbReg p u w rn rd rm s
  | .ldrsbImm _ p u w rn rd immH immL => Sys2Proof.Machine.execLdrsbImm p u w rn rd immH immL s
  | .ldrshReg _ p u w rn rd rm => Sys2Proof.Machine.execLdrshReg p u w rn rd rm s
  | .ldrshImm _ p u w rn rd immH immL => Sys2Proof.Machine.execLdrshImm p u w rn rd immH immL s
  | .mrs _ spsr rd => Sys2Proof.Machine.execMrs spsr rd s
  | .msrCpsrReg _ mask rm => Sys2Proof.Machine.execMsrCpsrReg mask rm s
  | .msrSpsrReg _ mask rm => Sys2Proof.Machine.execMsrSpsrReg mask rm s
  | .msrCpsrImm _ mask rotate imm8 => Sys2Proof.Machine.execMsrCpsrImm mask rotate imm8 s
  | .msrSpsrImm _ mask rotate imm8 => Sys2Proof.Machine.execMsrSpsrImm mask rotate imm8 s
  | .bx _ rm => Sys2Proof.Machine.execBx rm s
  | .strImmPre _ u w rn rd imm12 => Sys2Proof.Machine.execStrImmPre u w rn rd imm12 s
  | .strImmPost _ u rn rd imm12 => Sys2Proof.Machine.execStrImmPost u rn rd imm12 s
  | .strtImm _ u rn rd imm12 => Sys2Proof.Machine.execStrtImm u rn rd imm12 s
  | .strRegPre _ u w rn rd shiftImm kind rm => Sys2Proof.Machine.execStrRegPre u w rn rd shiftImm kind rm s
  | .strRegPost _ u rn rd shiftImm kind rm => Sys2Proof.Machine.execStrRegPost u rn rd shiftImm kind rm s
  | .strtReg _ u rn rd shiftImm kind rm => Sys2Proof.Machine.execStrtReg u rn rd shiftImm kind rm s
  | .ldrImmPre _ u w rn rd imm12 => Sys2Proof.Machine.execLdrImmPre u w rn rd imm12 s
  | .ldrImmPost _ u rn rd imm12 => Sys2Proof.Machine.execLdrImmPost u rn rd imm12 s
  | .ldrtImm _ u rn rd imm12 => Sys2Proof.Machine.execLdrtImm u rn rd imm12 s
  | .ldrRegPre _ u w rn rd shiftImm kind rm => Sys2Proof.Machine.execLdrRegPre u w rn rd shiftImm kind rm s
  | .ldrRegPost _ u rn rd shiftImm kind rm => Sys2Proof.Machine.execLdrRegPost u rn rd shiftImm kind rm s
  | .ldrtReg _ u rn rd shiftImm kind rm => Sys2Proof.Machine.execLdrtReg u rn rd shiftImm kind rm s
  | .strbImmPre _ u w rn rd imm12 => Sys2Proof.Machine.execStrbImmPre u w rn rd imm12 s
  | .strbImmPost _ u rn rd imm12 => Sys2Proof.Machine.execStrbImmPost u rn rd imm12 s
  | .strbtImm _ u rn rd imm12 => Sys2Proof.Machine.execStrbtImm u rn rd imm12 s
  | .strbRegPre _ u w rn rd shiftImm kind rm => Sys2Proof.Machine.execStrbRegPre u w rn rd shiftImm kind rm s
  | .strbRegPost _ u rn rd shiftImm kind rm => Sys2Proof.Machine.execStrbRegPost u rn rd shiftImm kind rm s
  | .strbtReg _ u rn rd shiftImm kind rm => Sys2Proof.Machine.execStrbtReg u rn rd shiftImm kind rm s
  | .ldrbImmPre _ u w rn rd imm12 => Sys2Proof.Machine.execLdrbImmPre u w rn rd imm12 s
  | .ldrbImmPost _ u rn rd imm12 => Sys2Proof.Machine.execLdrbImmPost u rn rd imm12 s
  | .ldrbtImm _ u rn rd imm12 => Sys2Proof.Machine.execLdrbtImm u rn rd imm12 s
  | .ldrbRegPre _ u w rn rd shiftImm kind rm => Sys2Proof.Machine.execLdrbRegPre u w rn rd shiftImm kind rm s
  | .ldrbRegPost _ u rn rd shiftImm kind rm => Sys2Proof.Machine.execLdrbRegPost u rn rd shiftImm kind rm s
  | .ldrbtReg _ u rn rd shiftImm kind rm => Sys2Proof.Machine.execLdrbtReg u rn rd shiftImm kind rm s
  | .stm _ p u sBit w rn list => Sys2Proof.Machine.execStm p u sBit w rn list s
  | .ldm _ p u sBit w rn list => Sys2Proof.Machine.execLdm p u sBit w rn list s
  | .b _ imm24 => Sys2Proof.Machine.execB imm24 s
  | .bl _ imm24 => Sys2Proof.Machine.execBl imm24 s
  | .stc _ _ _ _ _ _ _ _ _ => Sys2Proof.Machine.execStc s
  | .ldc _ _ _ _ _ _ _ _ _ => Sys2Proof.Machine.execLdc s
  | .cdp _ _ _ _ _ _ _ => Sys2Proof.Machine.execCdp s
  | .mcr _ _ _ _ _ _ _ => Sys2Proof.Machine.execMcr s
  | .mrc _ _ _ _ _ _ _ => Sys2Proof.Machine.execMrc s
  | .swi _ _ => Sys2Proof.Machine.execSwi s
  | .undefMulSpace _ => Sys2Proof.Machine.execUndefMulSpace s
  | .undefSwapBit23 _ => Sys2Proof.Machine.execUndefSwapBit23 s
  | .undefSwapBit20 _ => Sys2Proof.Machine.execUndefSwapBit20 s
  | .undefSwapBit21 _ => Sys2Proof.Machine.execUndefSwapBit21 s
  | .undefHalfStore _ => Sys2Proof.Machine.execUndefHalfStore s
  | .undefTestBit7 _ => Sys2Proof.Machine.execUndefTestBit7 s
  | .undefTestLsl01 _ => Sys2Proof.Machine.execUndefTestLsl01 s
  | .undefTestLo2 _ => Sys2Proof.Machine.execUndefTestLo2 s
  | .undefTestBit6Reg _ => Sys2Proof.Machine.execUndefTestBit6Reg s
  | .undefTestLo3 _ => Sys2Proof.Machine.execUndefTestLo3 s
  | .undefMrsLo1 _ => Sys2Proof.Machine.execUndefMrsLo1 s
  | .undefMsrSpsrLo1 _ => Sys2Proof.Machine.execUndefMsrSpsrLo1 s
  | .undefTestImm _ => Sys2Proof.Machine.execUndefTestImm s
  | .undefRegOffsetBit4 _ => Sys2Proof.Machine.execUndefRegOffsetBit4 s
  | .tLslImm offset5 rs rd => Sys2Proof.Machine.execTLslImm offset5 rs rd s
  | .tLsrImm offset5 rs rd => Sys2Proof.Machine.execTLsrImm offset5 rs rd s
  | .tAsrImm offset5 rs rd => Sys2Proof.Machine.execTAsrImm offset5 rs rd s
  | .tAddReg rn rs rd => Sys2Proof.Machine.execTAddReg rn rs rd s
  | .tSubReg rn rs rd => Sys2Proof.Machine.execTSubReg rn rs rd s
  | .tAddImm3 imm3 rs rd => Sys2Proof.Machine.execTAddImm3 imm3 rs rd s
  | .tSubImm3 imm3 rs rd => Sys2Proof.Machine.execTSubImm3 imm3 rs rd s
  | .tMovImm8 rd imm8 => Sys2Proof.Machine.execTMovImm8 rd imm8 s
  | .tCmpImm8 rd imm8 => Sys2Proof.Machine.execTCmpImm8 rd imm8 s
  | .tAddImm8 rd imm8 => Sys2Proof.Machine.execTAddImm8 rd imm8 s
  | .tSubImm8 rd imm8 => Sys2Proof.Machine.execTSubImm8 rd imm8 s
  | .tAnd rs rd => Sys2Proof.Machine.execTAnd rs rd s
  | .tEor rs rd => Sys2Proof.Machine.execTEor rs rd s
  | .tLslReg rs rd => Sys2Proof.Machine.execTLslReg rs rd s
  | .tLsrReg rs rd => Sys2Proof.Machine.execTLsrReg rs rd s
  | .tAsrReg rs rd => Sys2Proof.Machine.execTAsrReg rs rd s
  | .tAdc rs rd => Sys2Proof.Machine.execTAdc rs rd s
  | .tSbc rs rd => Sys2Proof.Machine.execTSbc rs rd s
  | .tRor rs rd => Sys2Proof.Machine.execTRor rs rd s
  | .tTst rs rd => Sys2Proof.Machine.execTTst rs rd s
  | .tNeg rs rd => Sys2Proof.Machine.execTNeg rs rd s
  | .tCmpReg rs rd => Sys2Proof.Machine.execTCmpReg rs rd s
  | .tCmn rs rd => Sys2Proof.Machine.execTCmn rs rd s
  | .tOrr rs rd => Sys2Proof.Machine.execTOrr rs rd s
  | .tMul rs rd => Sys2Proof.Machine.execTMul rs rd s
  | .tBic rs rd => Sys2Proof.Machine.execTBic rs rd s
  | .tMvn rs rd => Sys2Proof.Machine.execTMvn rs rd s
  | .tAddHi src dst => Sys2Proof.Machine.execTAddHi src dst s
  | .tCmpHi src dst => Sys2Proof.Machine.execTCmpHi src dst s
  | .tMovHi src dst => Sys2Proof.Machine.execTMovHi src dst s
  | .tBx _ src => Sys2Proof.Machine.execTBx src s
  | .tLdrPc rd imm8 => Sys2Proof.Machine.execTLdrPc rd imm8 s
  | .tStrReg ro rb rd => Sys2Proof.Machine.execTStrReg ro rb rd s
  | .tStrhReg ro rb rd => Sys2Proof.Machine.execTStrhReg ro rb rd s
  | .tStrbReg ro rb rd => Sys2Proof.Machine.execTStrbReg ro rb rd s
  | .tLdsbReg ro rb rd => Sys2Proof.Machine.execTLdsbReg ro rb rd s
  | .tLdrReg ro rb rd => Sys2Proof.Machine.execTLdrReg ro rb rd s
  | .tLdrhReg ro rb rd => Sys2Proof.Machine.execTLdrhReg ro rb rd s
  | .tLdrbReg ro rb rd => Sys2Proof.Machine.execTLdrbReg ro rb rd s
  | .tLdshReg ro rb rd => Sys2Proof.Machine.execTLdshReg ro rb rd s
  | .tStrImm offset5 rb rd => Sys2Proof.Machine.execTStrImm offset5 rb rd s
  | .tLdrImm offset5 rb rd => Sys2Proof.Machine.execTLdrImm offset5 rb rd s
  | .tStrbImm offset5 rb rd => Sys2Proof.Machine.execTStrbImm offset5 rb rd s
  | .tLdrbImm offset5 rb rd => Sys2Proof.Machine.execTLdrbImm offset5 rb rd s
  | .tStrhImm offset5 rb rd => Sys2Proof.Machine.execTStrhImm offset5 rb rd s
  | .tLdrhImm offset5 rb rd => Sys2Proof.Machine.execTLdrhImm offset5 rb rd s
  | .tStrSp rd imm8 => Sys2Proof.Machine.execTStrSp rd imm8 s
  | .tLdrSp rd imm8 => Sys2Proof.Machine.execTLdrSp rd imm8 s
  | .tAddPc rd imm8 => Sys2Proof.Machine.execTAddPc rd imm8 s
  | .tAddSp rd imm8 => Sys2Proof.Machine.execTAddSp rd imm8 s
  | .tIncSp imm7 => Sys2Proof.Machine.execTIncSp imm7 s
  | .tDecSp imm7 => Sys2Proof.Machine.execTDecSp imm7 s
  | .tPush lr list => Sys2Proof.Machine.execTPush lr list s
  | .tPop pc list => Sys2Proof.Machine.execTPop pc list s
  | .tStmia rb list => Sys2Proof.Machine.execTStmia rb list s
  | .tLdmia rb list => Sys2Proof.Machine.execTLdmia rb list s
  | .tBeq soffset8 => Sys2Proof.Machine.execTBeq soffset8 s
  | .tBne soffset8 => Sys2Proof.Machine.execTBne soffset8 s
  | .tBcs soffset8 => Sys2Proof.Machine.execTBcs soffset8 s
  | .tBcc soffset8 => Sys2Proof.Machine.execTBcc soffset8 s
  | .tBmi soffset8 => Sys2Proof.Machine.execTBmi soffset8 s
  | .tBpl soffset8 => Sys2Proof.Machine.execTBpl soffset8 s
  | .tBvs soffset8 => Sys2Proof.Machine.execTBvs soffset8 s
  | .tBvc soffset8 => Sys2Proof.Machine.execTBvc soffset8 s
  | .tBhi soffset8 => Sys2Proof.Machine.execTBhi soffset8 s
  | .tBls soffset8 => Sys2Proof.Machine.execTBls soffset8 s
  | .tBge soffset8 => Sys2Proof.Machine.execTBge soffset8 s
  | .tBlt soffset8 => Sys2Proof.Machine.execTBlt soffset8 s
  | .tBgt soffset8 => Sys2Proof.Machine.execTBgt soffset8 s
  | .tBle soffset8 => Sys2Proof.Machine.execTBle soffset8 s
  | .tSwi _ => Sys2Proof.Machine.execTSwi s
  | .tB offset11 => Sys2Proof.Machine.execTB offset11 s
  | .tBlHigh offset11 => Sys2Proof.Machine.execTBlHigh offset11 s
  | .tBlLow offset11 => Sys2Proof.Machine.execTBlLow offset11 s
  | .tUndefB1 => Sys2Proof.Machine.execTUndefB1 s
  | .tUndefB2 => Sys2Proof.Machine.execTUndefB2 s
  | .tUndefB6 => Sys2Proof.Machine.execTUndefB6 s
  | .tUndefB8 => Sys2Proof.Machine.execTUndefB8 s
  | .tUndefBe => Sys2Proof.Machine.execTUndefBe s
  | .tUndefDe => Sys2Proof.Machine.execTUndefDe s
  | .tUndefE8 => Sys2Proof.Machine.execTUndefE8 s

end Sys2Proof.Machine
end

