-- ==== Sys2Proof/Machine/Fetch.lean ====
section
/-! DEFINITION. Fetch and decode (spec/40_cycle_and_condition.md R83, R84; spec/20_memory.md R46). -/

namespace Sys2Proof.Machine

/-- The condition field of an ARM word (R70). -/
def condOf (w : Word) : Cond := Cond.ofBits (w.extractLsb' 28 4)

/-- The instruction a bucket's row reads from the fetched word; a Thumb halfword is in bits 15:0 (R24). -/
def Bucket.instr (b : Bucket) (opcode : Word) : Option Instr :=
  match b with
  | .arm idx => (armRowOf idx).map (·.build opcode)
  | .thumb idx => (thumbRowOf idx).map (·.build (opcode.setWidth 16))

/-- The fetch of an ARM instruction: four bytes at `pc & ~3` (R46). -/
def State.fetchArm (s : State) : Access := s.readWord s.pc

/-- The fetch of a Thumb instruction: two bytes at `pc & ~1`, zero-extended (R46, R83). -/
def State.fetchThumb (s : State) : Access :=
  let v := (s.mem.read16 (alignHalf s.pc)).setWidth 32
  ⟨v, .read .half (alignHalf s.pc) v⟩

/-- `FetchDecode` (R83): an ARM instruction whose condition fails is skipped and nothing is staged (R84). DESIGN CHOICE
(notes/assumptions/21.md): the skip's `pc + 4` keeps the low bits of a misaligned `pc`, as `Run.finish` does. -/
def State.fetchDecode (s : State) : State :=
  if s.thumb then
    let m := s.fetchThumb
    ((s.called m.call).setOpcode m.value).setPending (some (.thumb (thumbIndex (m.value.setWidth 16))))
  else
    let m := s.fetchArm
    let t := (s.called m.call).setOpcode m.value
    if conditionPassed (condOf m.value) s.cpsr then t.setPending (some (.arm (armIndex m.value)))
    else t.setPc (s.pc + 4#32)

end Sys2Proof.Machine
end

