-- ==== Sys2Proof/Machine/Interrupt.lean ====
section
/-! DEFINITION. The Interrupt Dispatcher (spec/60_exceptions.md R310, R311). The number of the source it selects is stored
nowhere (R302). -/

namespace Sys2Proof.Machine

/-- The source the dispatcher selects: the lowest-numbered of the `IRQ_LINES` that is enabled and pending (R310). -/
def State.irqSource (s : State) : Option Nat :=
  (List.range s.params.irqLines).find? fun i => s.irqEnable.testBit i && s.irqPending.testBit i

/-- Step I2 of R310: some source is enabled and pending. -/
def State.irqWaiting (s : State) : Bool := s.irqSource.isSome

/-- The Boolean `InterruptCheck` returns: the IRQ was entered (R310). -/
def State.irqTaken (s : State) : Bool := !Psr.i s.cpsr && s.irqWaiting && s.irqMaster

/-- `raise IRQ(return = pc + 4)` (R311). -/
def State.enterIrq (s : State) : State := s.enterException .irq Config.vecIrq (s.pc + 4#32)

/-- `InterruptCheck` (R310): with I set nothing happens, not even the wake. -/
def State.interruptCheck (s : State) : State :=
  if Psr.i s.cpsr then s
  else if s.irqWaiting then (if s.irqMaster then s.wake.enterIrq else s.wake)
  else s

end Sys2Proof.Machine
end

