-- ==== Sys2Proof/Machine/Cycle.lean ====
section
/-! DEFINITION. The Cycle Stepper (spec/40_cycle_and_condition.md R80, R81). -/

namespace Sys2Proof.Machine

/-- The end of a cycle that does not delay: the interrupt check, then, unless halted or stopped, the next fetch
(R80 steps C2 and C3; R314). -/
def State.stageNext (s : State) : State :=
  let s := s.interruptCheck
  if s.halted || s.stopped then s else s.fetchDecode

/-- Step C3 of R80: the staged instruction is dispatched, then the next one staged. -/
def dispatch (b : Bucket) (s : State) : Outcome :=
  match b.instr s.opcode with
  | none => .refused .noDecodeRow
  | some i =>
    match exec i (s.setPending none) with
    | .next t => .next t.stageNext
    | .fault f => .fault f
    | .refused r => .refused r

/-- `Cycle()` (R80). -/
def cycle (s : State) : Outcome :=
  let s := s.clearOuts
  if s.dead then .next s
  else if 0 < s.delay then .next (s.setDelay (s.delay - 1))
  else
    match s.pending with
    | none => .next s.stageNext
    | some b => dispatch b s

end Sys2Proof.Machine
end

