-- ==== Sys2Proof/Machine/Step.lean ====
section
/-! DEFINITION. One step of the machine is one call of `Cycle()` (R80; notes/assumptions/1.md), and how an instruction is put
where the next step runs it (notes/assumptions/15.md). -/

namespace Sys2Proof.Machine

/-- One step. -/
def step (s : State) : Outcome := cycle s

/-- The state with one instruction stored at `pc` and staged, as the Decoding cycle before would have left it: T as
the set of the instruction says (a row of at most 16 bits is Thumb), nothing counting down. -/
def State.withFetchWord (s : State) (nbits w : Nat) : State :=
  let t := { s with delay := 0, dead := false }
  if nbits ≤ 16 then
    let h := BitVec.ofNat 16 w
    { t with cpsr := Psr.withT s.cpsr true, mem := s.mem.write16 (alignHalf s.pc) h, opcode := h.setWidth 32,
             pending := some (.thumb (thumbIndex h)) }
  else
    let v := BitVec.ofNat 32 w
    { t with cpsr := Psr.withT s.cpsr false, mem := s.mem.write32 (alignWord s.pc) v, opcode := v,
             pending := some (.arm (armIndex v)) }

end Sys2Proof.Machine
end

