-- ==== Sys2Proof/Machine/Environment.lean ====
section
/-! DEFINITION. What the host and the environment do between two cycles (spec/70_reset_and_hazards.md R333, spec/10_state.md R28, R29,
spec/20_memory.md R50): the reset action, the inputs, writes to memory by other components, what the environment will do inside the
port calls to come, and the accessors. -/

namespace Sys2Proof.Machine

/-- One action between two cycles, or one cycle. -/
inductive HostAction where
  /-- `Cycle()` (R80). -/
  | cycle
  /-- `Reset()` (R330): the state is created again from a boot convention. -/
  | reset (b : BootConvention)
  /-- The inputs take new values (R28). -/
  | inputs (v : Inputs)
  /-- Another component writes one byte of memory (R50 item 3). -/
  | writeMemory (addr : Word) (b : Byte)
  /-- What the environment does inside the coming port calls (R333). -/
  | reactions (rs : List Reaction)
  /-- `x[i] <- v` from the host (R29). -/
  | writeRegister (i : Reg) (v : Word)
  /-- `SPSR_cur() <- v` from the host (R29). -/
  | writeSpsr (v : Word)
  deriving DecidableEq, Repr

/-- The inputs written. -/
def State.setInputs (s : State) (v : Inputs) : State :=
  { s with irqEnable := v.irqEnable, irqPending := v.irqPending, irqMaster := v.irqMaster, halted := v.halted,
           stopped := v.stopped }

/-- What the environment does inside the coming port calls, set. -/
def State.setReactions (s : State) (rs : List Reaction) : State := { s with reactions := rs }

/-- `Reset()` (R330): the core's state is created again; the environment's memory, inputs and reactions, and the
parameters, are not the core's and stay (notes/assumptions/19.md). -/
def State.resetAgain (s : State) (b : BootConvention) : State :=
  { State.boot b s.params with mem := s.mem, irqEnable := s.irqEnable, irqPending := s.irqPending, irqMaster := s.irqMaster,
                               halted := s.halted, stopped := s.stopped, reactions := s.reactions }

/-- `x[i] <- v` from the host: a write of r15 also empties `pending_instruction` (R29); the value is aligned as every
`x[15] <- v` is (notes/assumptions/20.md). -/
def State.hostWrite (s : State) (i : Reg) (v : Word) : State :=
  if i = 15#4 then (s.writePc v).setPending none else s.setX i v

/-- What a fault leaves: the state before the cycle with `dead` set (R27, R301; notes/assumptions/8.md). -/
def State.kill (s : State) : State := { s.clearOuts with dead := true }

/-- One action's result; a refusal has none. -/
def hostStep (a : HostAction) (s : State) : Option State :=
  match a with
  | .cycle =>
    match step s with
    | .next t => some t
    | .fault _ => some s.kill
    | .refused _ => none
  | .reset b => some (s.resetAgain b)
  | .inputs v => some (s.setInputs v)
  | .writeMemory addr b => some (s.setMem (s.mem.write8 addr b))
  | .reactions rs => some (s.setReactions rs)
  | .writeRegister i v => some (s.hostWrite i v)
  | .writeSpsr v => some (s.setSpsrCur v)

/-- The read accessors of R29: a logical register, CPSR, the current SPSR, the current mode number. -/
def State.hostRegister (s : State) (i : Reg) : Word := s.x i
/-- The current mode number, `CPSR.M` (R29). -/
def State.hostMode (s : State) : BitVec 5 := Psr.mode s.cpsr

end Sys2Proof.Machine
end

