-- ==== Sys2Proof/Safety.lean ====
section
/-! DEFINITION. The terms claims are stated in: the invariants the spec gives the core between two cycles (spec/10_state.md
R16, R23, R26), safe runs, what an instruction leaves unchanged, and names for the instructions of one shape. -/

namespace Sys2Proof.Machine

/-! ## Invariants and runs -/

/-- `pc` is a multiple of 4 in ARM state and of 2 in Thumb state (R16). -/
abbrev State.pcAligned (s : State) : Prop := s.alignTarget s.pc = s.pc

/-- `bank_mode` is the mode CPSR.M names, when STRICT (R26). -/
abbrev State.bankAgrees (s : State) : Prop :=
  s.params.strict = true → Mode.ofBits (Psr.mode s.cpsr) = some s.bankMode

/-- What is staged was decoded from `opcode` in the state in force, and its ARM condition passed (R23, R83). -/
abbrev State.stagedAgrees (s : State) : Prop :=
  match s.pending with
  | none => True
  | some (.arm idx) => s.thumb = false ∧ armIndex s.opcode = idx ∧ conditionPassed (condOf s.opcode) s.cpsr = true
  | some (.thumb idx) =>
    s.thumb = true ∧ thumbIndex (s.opcode.setWidth 16) = idx ∧ (s.opcode.setWidth 16).setWidth 32 = s.opcode

/-- `opcode` holds the word fetched from `pc` (R23), while nothing but the core writes memory (R53). -/
abbrev State.stagedFresh (s : State) : Prop :=
  match s.pending with
  | none => True
  | some (.arm _) => s.opcode = s.fetchArm.value
  | some (.thumb _) => s.opcode = s.fetchThumb.value

/-- The environment writes no memory inside the coming port calls (R333); it may change the inputs. -/
abbrev State.quiet (s : State) : Prop := ∀ r ∈ s.reactions, r.writes = []

/-- What holds of the core between two cycles: canonical memory, an aligned `pc`, the bank map of the mode, and a staged
instruction that agrees with `opcode` (R16, R23, R26). -/
abbrev State.inv (s : State) : Prop :=
  s.mem.wf ∧ s.pcAligned ∧ s.bankAgrees ∧ s.stagedAgrees

/-- A run of `n` steps that ends in no fault and no refusal. DESIGN CHOICE (notes/assumptions/22.md): R82 leaves the end of a run
to the model; here a run ends after `n` calls of `step`, that is cycles, or at the first stop. -/
def State.runsSafely (s : State) : Nat → Bool
  | 0 => true
  | n + 1 =>
    match step s with
    | .next t => t.runsSafely n
    | .fault _ => false
    | .refused _ => false

/-! ## What is unchanged -/

/-- Every physical register but those listed, and but `pc`, holds what it held. -/
abbrev RegsKept (s t : State) (written : List PReg) : Prop :=
  ∀ p : PReg, p ≠ .pc → p ∉ written → t.reg p = s.reg p

/-- Every byte of memory reads as before. -/
abbrev MemKept (s t : State) : Prop := ∀ a : Word, t.mem.read8 a = s.mem.read8 a

/-- The environment writes no byte at `a` inside the next `calls` port calls (R333). -/
abbrev State.Untouched (s : State) (calls : Nat) (a : Word) : Prop :=
  ∀ r ∈ s.reactions.take calls, ∀ c ∈ r.writes, c.1 ≠ a

/-- Every byte reads as before, but for what the environment itself writes inside the next `calls` port calls. -/
abbrev MemKeptBut (s t : State) (calls : Nat) : Prop :=
  ∀ a : Word, s.Untouched calls a → t.mem.read8 a = s.mem.read8 a

/-- Every byte outside the `n` bytes from `start` on (modulo 2^32) reads as before, but for what the environment itself writes inside
the next `calls` port calls. -/
abbrev MemKeptOutside (s t : State) (start : Word) (n calls : Nat) : Prop :=
  ∀ a : Word, n ≤ (a - start).toNat → s.Untouched calls a → t.mem.read8 a = s.mem.read8 a

/-- The five saved status words are as before. -/
abbrev SpsrsKept (s t : State) : Prop :=
  t.spsrFiq = s.spsrFiq ∧ t.spsrSvc = s.spsrSvc ∧ t.spsrAbt = s.spsrAbt ∧ t.spsrIrq = s.spsrIrq ∧ t.spsrUnd = s.spsrUnd

/-- What no instruction writes (R89): what is staged, `opcode`, `dead` and the parameters. -/
abbrev StagingKept (s t : State) : Prop :=
  t.pending = s.pending ∧ t.opcode = s.opcode ∧ t.dead = s.dead ∧ t.params = s.params

/-- The SPSRs, the bank map and what no instruction writes are as before. -/
abbrev CoreKept (s t : State) : Prop := SpsrsKept s t ∧ t.bankMode = s.bankMode ∧ StagingKept s t

/-- What no instruction without a port call changes: what no instruction writes, the inputs, and what the environment will do inside
the coming port calls (R28, R48, R89). -/
abbrev StepperKept (s t : State) : Prop :=
  StagingKept s t ∧ t.irqEnable = s.irqEnable ∧ t.irqPending = s.irqPending ∧ t.irqMaster = s.irqMaster ∧
    t.halted = s.halted ∧ t.stopped = s.stopped ∧ t.reactions = s.reactions

/-- The SPSRs, the bank map and all that an instruction without a port call leaves are as before. -/
abbrev SystemKept (s t : State) : Prop := SpsrsKept s t ∧ t.bankMode = s.bankMode ∧ StepperKept s t

/-- What a list of events leaves of the environment, in order (R41, R48, R333). -/
abbrev Environment.replay (e : Environment) (cs : List OutEvent) : Environment := cs.foldl Environment.answer e

/-- The environment after its reactions to the next `n` port calls. -/
def Environment.reacted (e : Environment) : Nat → Environment
  | 0 => e
  | n + 1 => e.react.reacted n

/-- The core made exactly these calls, in this order, and memory, the inputs and the reactions to come are what they left (R48). -/
abbrev Calls (s t : State) (cs : List OutEvent) : Prop :=
  t.outs = s.outs ++ cs ∧ t.environment = s.environment.replay cs

/-- The flags hold the four values, and the status word's other 28 bits are as before. -/
abbrev FlagsAre (s t : State) (n z c v : Bool) : Prop :=
  Psr.n t.cpsr = n ∧ Psr.z t.cpsr = z ∧ Psr.c t.cpsr = c ∧ Psr.v t.cpsr = v ∧
    t.cpsr &&& 0x0FFFFFFF#32 = s.cpsr &&& 0x0FFFFFFF#32

/-! ## Operands, as the claims read them -/

/-- An operand of an ARM instruction: r15 is `pc + 8` (R88). -/
abbrev State.armOperand (s : State) (i : Reg) : Word := if i = 15#4 then s.pc + 8#32 else s.x i

/-- A high-register operand of a Thumb instruction: r15 is `pc + 4` (R88). -/
abbrev State.thumbOperand (s : State) (i : Reg) : Word := if i = 15#4 then s.pc + 4#32 else s.x i

/-- What an ARM store moves for a register: r15 is `pc + PC_STORE_OFFSET` (R88). -/
abbrev State.armStored (s : State) (i : Reg) : Word :=
  if i = 15#4 then s.pc + s.params.pcStoreOffset.word else s.x i

/-! ## Data processing -/

/-- The three operand forms of data processing (formats A1, A2, A3). -/
inductive DpForm where
  | shiftImm (shiftImm : BitVec 5) (kind : ShiftKind) (rm : Reg)
  | shiftReg (rs : Reg) (kind : ShiftKind) (rm : Reg)
  | imm (rotate : BitVec 4) (imm8 : BitVec 8)
  deriving DecidableEq, Repr

/-- The data-processing instruction of an operation and a form. -/
def dpInstr (op : AluOp) (c : Cond) (setFlags : Bool) (rn rd : Reg) (f : DpForm) : Instr :=
  match f with
  | .shiftImm n k rm =>
    match op with
    | .and => .andShiftImm c setFlags rn rd n k rm
    | .eor => .eorShiftImm c setFlags rn rd n k rm
    | .sub => .subShiftImm c setFlags rn rd n k rm
    | .rsb => .rsbShiftImm c setFlags rn rd n k rm
    | .add => .addShiftImm c setFlags rn rd n k rm
    | .adc => .adcShiftImm c setFlags rn rd n k rm
    | .sbc => .sbcShiftImm c setFlags rn rd n k rm
    | .rsc => .rscShiftImm c setFlags rn rd n k rm
    | .tst => .tstShiftImm c rn rd n k rm
    | .teq => .teqShiftImm c rn rd n k rm
    | .cmp => .cmpShiftImm c rn rd n k rm
    | .cmn => .cmnShiftImm c rn rd n k rm
    | .orr => .orrShiftImm c setFlags rn rd n k rm
    | .mov => .movShiftImm c setFlags rn rd n k rm
    | .bic => .bicShiftImm c setFlags rn rd n k rm
    | .mvn => .mvnShiftImm c setFlags rn rd n k rm
  | .shiftReg rs k rm =>
    match op with
    | .and => .andShiftReg c setFlags rn rd rs k rm
    | .eor => .eorShiftReg c setFlags rn rd rs k rm
    | .sub => .subShiftReg c setFlags rn rd rs k rm
    | .rsb => .rsbShiftReg c setFlags rn rd rs k rm
    | .add => .addShiftReg c setFlags rn rd rs k rm
    | .adc => .adcShiftReg c setFlags rn rd rs k rm
    | .sbc => .sbcShiftReg c setFlags rn rd rs k rm
    | .rsc => .rscShiftReg c setFlags rn rd rs k rm
    | .tst => .tstShiftReg c rn rd rs k rm
    | .teq => .teqShiftReg c rn rd rs k rm
    | .cmp => .cmpShiftReg c rn rd rs k rm
    | .cmn => .cmnShiftReg c rn rd rs k rm
    | .orr => .orrShiftReg c setFlags rn rd rs k rm
    | .mov => .movShiftReg c setFlags rn rd rs k rm
    | .bic => .bicShiftReg c setFlags rn rd rs k rm
    | .mvn => .mvnShiftReg c setFlags rn rd rs k rm
  | .imm r i =>
    match op with
    | .and => .andImm c setFlags rn rd r i
    | .eor => .eorImm c setFlags rn rd r i
    | .sub => .subImm c setFlags rn rd r i
    | .rsb => .rsbImm c setFlags rn rd r i
    | .add => .addImm c setFlags rn rd r i
    | .adc => .adcImm c setFlags rn rd r i
    | .sbc => .sbcImm c setFlags rn rd r i
    | .rsc => .rscImm c setFlags rn rd r i
    | .tst => .tstImm c rn rd r i
    | .teq => .teqImm c rn rd r i
    | .cmp => .cmpImm c rn rd r i
    | .cmn => .cmnImm c rn rd r i
    | .orr => .orrImm c setFlags rn rd r i
    | .mov => .movImm c setFlags rn rd r i
    | .bic => .bicImm c setFlags rn rd r i
    | .mvn => .mvnImm c setFlags rn rd r i

/-- The first operand, Rn, by the form (R120). -/
def DpForm.first (f : DpForm) (s : State) (rn : Reg) : Word :=
  match f with
  | .shiftImm .. => s.armOperand rn
  | .shiftReg .. => if rn = 15#4 then s.pc + s.params.pcRegShiftOffset.word else s.x rn
  | .imm .. => s.armOperand rn

/-- The shifter operand, by the form (R107); a register amount is the low byte of Rs (R102). -/
def DpForm.second (f : DpForm) (s : State) : Shifted :=
  match f with
  | .shiftImm n kind rm => shift kind (s.armOperand rm) n.toNat (Psr.c s.cpsr) .imm
  | .shiftReg rs kind rm =>
    let ahead := s.pc + s.params.pcRegShiftOffset.word
    shift kind (if rm = 15#4 then ahead else s.x rm)
      ((if rs = 15#4 then ahead else s.x rs) &&& 0xFF#32).toNat (Psr.c s.cpsr) .reg
  | .imm rotate imm8 => immOperand rotate imm8 (Psr.c s.cpsr)

/-- The operation on the form's operands (R111, R120). -/
def DpForm.out (f : DpForm) (op : AluOp) (s : State) (rn : Reg) : AluOut :=
  op.eval (f.first s rn) (f.second s).value (f.second s).carry (Psr.c s.cpsr) (Psr.v s.cpsr)

/-- The extra cycles the table gives a form's own shift (R343). -/
def DpForm.shiftCycles (f : DpForm) (s : State) : Nat :=
  match f with
  | .shiftImm .. => 0
  | .shiftReg .. => s.params.cycles.regShift
  | .imm .. => 0

/-! ## Single transfers -/

/-- The offset of formats A13 and A14. -/
inductive Offset where
  | imm (imm12 : BitVec 12)
  | reg (shiftImm : BitVec 5) (kind : ShiftKind) (rm : Reg)
  deriving DecidableEq, Repr

/-- The word or byte transfer with the bits P, U, W; P = 0 with W = 1 is the T form (R165). -/
def transferInstr (load byte : Bool) (o : Offset) (c : Cond) (p u w : Bool) (rn rd : Reg) : Instr :=
  match load, byte, o, p, w with
  | false, false, .imm i, true, w => .strImmPre c u w rn rd i
  | false, false, .imm i, false, false => .strImmPost c u rn rd i
  | false, false, .imm i, false, true => .strtImm c u rn rd i
  | false, false, .reg n k rm, true, w => .strRegPre c u w rn rd n k rm
  | false, false, .reg n k rm, false, false => .strRegPost c u rn rd n k rm
  | false, false, .reg n k rm, false, true => .strtReg c u rn rd n k rm
  | false, true, .imm i, true, w => .strbImmPre c u w rn rd i
  | false, true, .imm i, false, false => .strbImmPost c u rn rd i
  | false, true, .imm i, false, true => .strbtImm c u rn rd i
  | false, true, .reg n k rm, true, w => .strbRegPre c u w rn rd n k rm
  | false, true, .reg n k rm, false, false => .strbRegPost c u rn rd n k rm
  | false, true, .reg n k rm, false, true => .strbtReg c u rn rd n k rm
  | true, false, .imm i, true, w => .ldrImmPre c u w rn rd i
  | true, false, .imm i, false, false => .ldrImmPost c u rn rd i
  | true, false, .imm i, false, true => .ldrtImm c u rn rd i
  | true, false, .reg n k rm, true, w => .ldrRegPre c u w rn rd n k rm
  | true, false, .reg n k rm, false, false => .ldrRegPost c u rn rd n k rm
  | true, false, .reg n k rm, false, true => .ldrtReg c u rn rd n k rm
  | true, true, .imm i, true, w => .ldrbImmPre c u w rn rd i
  | true, true, .imm i, false, false => .ldrbImmPost c u rn rd i
  | true, true, .imm i, false, true => .ldrbtImm c u rn rd i
  | true, true, .reg n k rm, true, w => .ldrbRegPre c u w rn rd n k rm
  | true, true, .reg n k rm, false, false => .ldrbRegPost c u rn rd n k rm
  | true, true, .reg n k rm, false, true => .ldrbtReg c u rn rd n k rm

/-- The address and write-back of a word or byte transfer, by the functions its meaning uses (R160). -/
def Offset.addressed (o : Offset) (s : State) (p u w : Bool) (rn : Reg) : Addressed :=
  match o with
  | .imm i => s.addressImm p u w rn i
  | .reg n k rm => s.addressReg p u w rn n k rm

/-- The offset of formats A11 and A12. -/
inductive HalfOffset where
  | reg (rm : Reg)
  | imm (immH immL : BitVec 4)
  deriving DecidableEq, Repr

/-- The address and write-back of a halfword or signed transfer (R170). -/
def HalfOffset.addressed (o : HalfOffset) (s : State) (p u w : Bool) (rn : Reg) : Addressed :=
  match o with
  | .reg rm => s.addressHalfReg p u w rn rm
  | .imm h l => s.addressHalfImm p u w rn h l

/-- The five ways a load fits its value to a register. -/
inductive LoadKind where
  | word | byte | signedByte | half | signedHalf
  deriving DecidableEq, Repr

/-- The halfword or signed load of a kind; `none` for the kinds of R160. -/
def halfLoadInstr (k : LoadKind) (o : HalfOffset) (c : Cond) (p u w : Bool) (rn rd : Reg) : Option Instr :=
  match k, o with
  | .half, .reg rm => some (.ldrhReg c p u w rn rd rm)
  | .half, .imm h l => some (.ldrhImm c p u w rn rd h l)
  | .signedByte, .reg rm => some (.ldrsbReg c p u w rn rd rm)
  | .signedByte, .imm h l => some (.ldrsbImm c p u w rn rd h l)
  | .signedHalf, .reg rm => some (.ldrshReg c p u w rn rd rm)
  | .signedHalf, .imm h l => some (.ldrshImm c p u w rn rd h l)
  | .word, _ => none
  | .byte, _ => none

/-- The halfword store. -/
def halfStoreInstr (o : HalfOffset) (c : Cond) (p u w : Bool) (rn rd : Reg) : Instr :=
  match o with
  | .reg rm => .strhReg c p u w rn rd rm
  | .imm h l => .strhImm c p u w rn rd h l

/-- What a load of a kind gives, from the bytes of memory alone (R43, R44, R45). -/
def LoadKind.value (k : LoadKind) (m : Memory) (a : Word) : Word :=
  match k with
  | .word => (m.read32 (a &&& 0xFFFFFFFC#32)).rotateRight (8 * (a &&& 3#32).toNat)
  | .byte => (m.read8 a).setWidth 32
  | .signedByte => (m.read8 a).signExtend 32
  | .half =>
    if a.getLsbD 0 then ((m.read16 (a &&& 0xFFFFFFFE#32)).setWidth 32).rotateRight 8
    else (m.read16 a).setWidth 32
  | .signedHalf => if a.getLsbD 0 then (m.read8 a).signExtend 32 else (m.read16 a).signExtend 32

/-- The one port call a load of a kind makes (R43, R48). -/
def LoadKind.call (k : LoadKind) (m : Memory) (a : Word) : OutEvent :=
  match k with
  | .word => .read .word (a &&& 0xFFFFFFFC#32) (m.read32 (a &&& 0xFFFFFFFC#32))
  | .byte => .read .byte a ((m.read8 a).setWidth 32)
  | .signedByte => .read .byte a ((m.read8 a).setWidth 32)
  | .half => .read .half (a &&& 0xFFFFFFFE#32) ((m.read16 (a &&& 0xFFFFFFFE#32)).setWidth 32)
  | .signedHalf =>
    if a.getLsbD 0 then .read .byte a ((m.read8 a).setWidth 32) else .read .half a ((m.read16 a).setWidth 32)

/-- Whether a load of a kind at an address has no meaning: R45 under `MISALIGNED_HALFWORD = refuse`. -/
def LoadKind.refuses (k : LoadKind) (s : State) (a : Word) : Bool :=
  match k with
  | .word => false
  | .byte => false
  | .signedByte => false
  | .half => s.refusesHalf a
  | .signedHalf => s.refusesHalf a

/-- A Thumb single load: its kind, destination and address (R250 to R266). -/
def thumbLoadOf (i : Instr) (s : State) : Option (LoadKind × Reg × Word) :=
  match i with
  | .tLdrPc rd imm8 => some (.word, rd, ((s.pc + 4#32) &&& 0xFFFFFFFC#32) + (imm8.setWidth 32 <<< 2))
  | .tLdrReg ro rb rd => some (.word, rd, s.x rb + s.x ro)
  | .tLdrbReg ro rb rd => some (.byte, rd, s.x rb + s.x ro)
  | .tLdrhReg ro rb rd => some (.half, rd, s.x rb + s.x ro)
  | .tLdsbReg ro rb rd => some (.signedByte, rd, s.x rb + s.x ro)
  | .tLdshReg ro rb rd => some (.signedHalf, rd, s.x rb + s.x ro)
  | .tLdrImm offset5 rb rd => some (.word, rd, s.x rb + (offset5.setWidth 32 <<< 2))
  | .tLdrbImm offset5 rb rd => some (.byte, rd, s.x rb + offset5.setWidth 32)
  | .tLdrhImm offset5 rb rd => some (.half, rd, s.x rb + (offset5.setWidth 32 <<< 1))
  | .tLdrSp rd imm8 => some (.word, rd, s.x 13#4 + (imm8.setWidth 32 <<< 2))
  | _ => none

/-- A Thumb single store: its width, source and address (R251, R252, R255, R259, R261, R263, R265). -/
def thumbStoreOf (i : Instr) (s : State) : Option (Size × Reg × Word) :=
  match i with
  | .tStrReg ro rb rd => some (.word, rd, s.x rb + s.x ro)
  | .tStrbReg ro rb rd => some (.byte, rd, s.x rb + s.x ro)
  | .tStrhReg ro rb rd => some (.half, rd, s.x rb + s.x ro)
  | .tStrImm offset5 rb rd => some (.word, rd, s.x rb + (offset5.setWidth 32 <<< 2))
  | .tStrbImm offset5 rb rd => some (.byte, rd, s.x rb + offset5.setWidth 32)
  | .tStrhImm offset5 rb rd => some (.half, rd, s.x rb + (offset5.setWidth 32 <<< 1))
  | .tStrSp rd imm8 => some (.word, rd, s.x 13#4 + (imm8.setWidth 32 <<< 2))
  | _ => none

/-- The aligned address a store of a width goes to (R43). -/
def Size.storeAddress (z : Size) (a : Word) : Word :=
  match z with
  | .byte => a
  | .half => a &&& 0xFFFFFFFE#32
  | .word => a &&& 0xFFFFFFFC#32

/-- How many bytes a width has. -/
def Size.bytes (z : Size) : Nat :=
  match z with
  | .byte => 1
  | .half => 2
  | .word => 4

/-- The part of a register a store of a width moves (R43). -/
def Size.part (z : Size) (v : Word) : Word :=
  match z with
  | .byte => v &&& 0xFF#32
  | .half => v &&& 0xFFFF#32
  | .word => v

/-- A store's bytes read back at its address, as one number. -/
def Size.readBack (z : Size) (m : Memory) (a : Word) : Word :=
  match z with
  | .byte => (m.read8 a).setWidth 32
  | .half => (m.read16 a).setWidth 32
  | .word => m.read32 a

/-! ## Block transfers -/

/-- The fields of a block transfer (R180). -/
structure BlockFields where
  p : Bool
  u : Bool
  sBit : Bool
  w : Bool
  rn : Reg
  list : BitVec 16
  deriving DecidableEq, Repr

/-- A storing block transfer's fields: STM, PUSH and Thumb STMIA (R186, R267, R269). -/
def blockStoreOf (i : Instr) : Option BlockFields :=
  match i with
  | .stm _ p u sBit w rn list => some ⟨p, u, sBit, w, rn, list⟩
  | .tPush lr list => some ⟨true, false, false, true, 13#4, list.setWidth 16 ||| (if lr then 0x4000#16 else 0#16)⟩
  | .tStmia rb list => some ⟨false, true, false, true, rb, list.setWidth 16⟩
  | _ => none

/-- A loading block transfer's fields: LDM, POP and Thumb LDMIA (R185, R268, R270). -/
def blockLoadOf (i : Instr) : Option BlockFields :=
  match i with
  | .ldm _ p u sBit w rn list => some ⟨p, u, sBit, w, rn, list⟩
  | .tPop pc list => some ⟨false, true, false, true, 13#4, list.setWidth 16 ||| (if pc then 0x8000#16 else 0#16)⟩
  | .tLdmia rb list => some ⟨false, true, false, true, rb, list.setWidth 16⟩
  | _ => none

/-- The registers a block transfer moves, in the order it walks them: those of the list from bit 0 up, or the substitute
of R182 for an empty list. -/
def BlockFields.regs (f : BlockFields) (s : State) : List Reg :=
  if f.list = 0#16 then
    match s.params.emptyRlist with
    | .all16 => allRegs
    | .r15Only => [15#4]
  else allRegs.filter fun i => f.list.getLsbD i.toNat

/-- The number of words the base moves by (R181, R182). -/
def BlockFields.count (f : BlockFields) (s : State) : Nat :=
  if f.list = 0#16 then 16 else (f.regs s).length

/-- The lowest address and the final base (R181, R182). -/
def BlockFields.range (f : BlockFields) (s : State) : BlockAddr :=
  blockAddr (s.xop f.rn) (f.count s) f.p f.u

/-- The aligned address of the k-th word (R181, R183). -/
def BlockFields.wordAddress (f : BlockFields) (s : State) (k : Nat) : Word :=
  ((f.range s).start + BitVec.ofNat 32 (4 * k)) &&& 0xFFFFFFFC#32

/-- The state after the write-back, which the first transfer of a block makes (R183). -/
def BlockFields.based (f : BlockFields) (s : State) : State :=
  if f.w then s.setX f.rn (f.range s).final else s

/-- The word stored for the k-th register (R183, R184, R271): the first is stored before the write-back, the others
after it; r15 is `pc + PC_STORE_OFFSET` in ARM state and `pc + 4` in Thumb state. -/
def BlockFields.stored (f : BlockFields) (s : State) (k : Nat) (i : Reg) : Word :=
  let t := if k = 0 then s else f.based s
  if i = 15#4 then (if s.thumb then t.pc + 4#32 else t.pc + s.params.pcStoreOffset.word)
  else if f.sBit then t.xusr i else t.x i

/-- The physical register a loaded word goes to (R184). -/
def BlockFields.target (f : BlockFields) (s : State) (i : Reg) : PReg :=
  if f.sBit then phys .usr i else phys s.bankMode i

/-! ## Status-register transfers -/

/-- An MSR to CPSR: its field mask and its operand (R195, R196). -/
def msrCpsrOf (i : Instr) (s : State) : Option (BitVec 4 × Word) :=
  match i with
  | .msrCpsrReg _ mask rm => some (mask, s.armOperand rm)
  | .msrCpsrImm _ mask rotate imm8 => some (mask, (imm8.setWidth 32).rotateRight (2 * rotate.toNat))
  | _ => none

/-- An MSR to SPSR: its field mask and its operand (R195, R197). -/
def msrSpsrOf (i : Instr) (s : State) : Option (BitVec 4 × Word) :=
  match i with
  | .msrSpsrReg _ mask rm => some (mask, s.armOperand rm)
  | .msrSpsrImm _ mask rotate imm8 => some (mask, (imm8.setWidth 32).rotateRight (2 * rotate.toNat))
  | _ => none

/-- The status word field by field: the bytes f, s, x from the operand where the mask names them, I, F and M where the
control byte is written, T where the last argument says so (R195, R196, R197). -/
def msrWord (old v : Word) (mask : BitVec 4) (control writesT : Bool) : Word :=
  let pick (b : Bool) (k n : Nat) : BitVec n := if b then v.extractLsb' k n else old.extractLsb' k n
  pick (mask.getLsbD 3) 24 8 ++ pick (mask.getLsbD 2) 16 8 ++ pick (mask.getLsbD 1) 8 8 ++ pick control 6 2 ++
    pick (control && writesT) 5 1 ++ pick control 0 5

/-- Whether MSR to CPSR writes the control byte: the mask names it, and the mode is not User under `blocked` (R196, R306). -/
def State.writesControl (s : State) (mask : BitVec 4) : Bool :=
  mask.getLsbD 0 && !(Psr.mode s.cpsr == 0x10#5 && decide (s.params.msrUserControl = .blocked))

/-! ## Branches and the Thumb operations -/

/-- The conditional branch of a condition; AL and NV have none (R281). -/
def thumbBranch (c : Cond) (soffset8 : BitVec 8) : Option Instr :=
  match c with
  | .eq => some (.tBeq soffset8)
  | .ne => some (.tBne soffset8)
  | .cs => some (.tBcs soffset8)
  | .cc => some (.tBcc soffset8)
  | .mi => some (.tBmi soffset8)
  | .pl => some (.tBpl soffset8)
  | .vs => some (.tBvs soffset8)
  | .vc => some (.tBvc soffset8)
  | .hi => some (.tBhi soffset8)
  | .ls => some (.tBls soffset8)
  | .ge => some (.tBge soffset8)
  | .lt => some (.tBlt soffset8)
  | .gt => some (.tBgt soffset8)
  | .le => some (.tBle soffset8)
  | .al => none
  | .nv => none

/-- A flag-setting Thumb operation: the operation of R111 it is, its destination, its first operand and its second with
the shifter carry (R211 to R237, R239). A shift is a move of the shifter's result. -/
def thumbAluOf (i : Instr) (s : State) : Option (AluOp × Reg × Word × Shifted) :=
  let c := Psr.c s.cpsr
  match i with
  | .tLslImm n rs rd => some (.mov, rd, 0#32, shift .lsl (s.x rs) n.toNat c .imm)
  | .tLsrImm n rs rd => some (.mov, rd, 0#32, shift .lsr (s.x rs) n.toNat c .imm)
  | .tAsrImm n rs rd => some (.mov, rd, 0#32, shift .asr (s.x rs) n.toNat c .imm)
  | .tAddReg rn rs rd => some (.add, rd, s.x rs, ⟨s.x rn, c⟩)
  | .tSubReg rn rs rd => some (.sub, rd, s.x rs, ⟨s.x rn, c⟩)
  | .tAddImm3 n rs rd => some (.add, rd, s.x rs, ⟨n.setWidth 32, c⟩)
  | .tSubImm3 n rs rd => some (.sub, rd, s.x rs, ⟨n.setWidth 32, c⟩)
  | .tMovImm8 rd n => some (.mov, rd, 0#32, ⟨n.setWidth 32, c⟩)
  | .tCmpImm8 rd n => some (.cmp, rd, s.x rd, ⟨n.setWidth 32, c⟩)
  | .tAddImm8 rd n => some (.add, rd, s.x rd, ⟨n.setWidth 32, c⟩)
  | .tSubImm8 rd n => some (.sub, rd, s.x rd, ⟨n.setWidth 32, c⟩)
  | .tAnd rs rd => some (.and, rd, s.x rd, ⟨s.x rs, c⟩)
  | .tEor rs rd => some (.eor, rd, s.x rd, ⟨s.x rs, c⟩)
  | .tLslReg rs rd => some (.mov, rd, 0#32, shift .lsl (s.x rd) (s.x rs &&& 0xFF#32).toNat c .reg)
  | .tLsrReg rs rd => some (.mov, rd, 0#32, shift .lsr (s.x rd) (s.x rs &&& 0xFF#32).toNat c .reg)
  | .tAsrReg rs rd => some (.mov, rd, 0#32, shift .asr (s.x rd) (s.x rs &&& 0xFF#32).toNat c .reg)
  | .tAdc rs rd => some (.adc, rd, s.x rd, ⟨s.x rs, c⟩)
  | .tSbc rs rd => some (.sbc, rd, s.x rd, ⟨s.x rs, c⟩)
  | .tRor rs rd => some (.mov, rd, 0#32, shift .ror (s.x rd) (s.x rs &&& 0xFF#32).toNat c .reg)
  | .tTst rs rd => some (.tst, rd, s.x rd, ⟨s.x rs, c⟩)
  | .tNeg rs rd => some (.sub, rd, 0#32, ⟨s.x rs, c⟩)
  | .tCmpReg rs rd => some (.cmp, rd, s.x rd, ⟨s.x rs, c⟩)
  | .tCmn rs rd => some (.cmn, rd, s.x rd, ⟨s.x rs, c⟩)
  | .tOrr rs rd => some (.orr, rd, s.x rd, ⟨s.x rs, c⟩)
  | .tBic rs rd => some (.bic, rd, s.x rd, ⟨s.x rs, c⟩)
  | .tMvn rs rd => some (.mvn, rd, 0#32, ⟨s.x rs, c⟩)
  | .tCmpHi src dst => some (.cmp, dst, s.thumbOperand dst, ⟨s.thumbOperand src, c⟩)
  | _ => none

/-- The extra cycles the table gives a Thumb operation's register-specified shift (R343). -/
def thumbShiftCycles (i : Instr) (s : State) : Nat :=
  match i with
  | .tLslReg .. => s.params.cycles.regShift
  | .tLsrReg .. => s.params.cycles.regShift
  | .tAsrReg .. => s.params.cycles.regShift
  | .tRor .. => s.params.cycles.regShift
  | _ => 0

/-- A Thumb instruction that writes one register and no flag: the register and the value (R238, R240, R242 to R245). -/
def thumbMoveOf (i : Instr) (s : State) : Option (Reg × Word) :=
  match i with
  | .tAddHi src dst => some (dst, s.thumbOperand dst + s.thumbOperand src)
  | .tMovHi src dst => some (dst, s.thumbOperand src)
  | .tAddPc rd n => some (rd, ((s.pc + 4#32) &&& 0xFFFFFFFC#32) + (n.setWidth 32 <<< 2))
  | .tAddSp rd n => some (rd, s.x 13#4 + (n.setWidth 32 <<< 2))
  | .tIncSp n => some (13#4, s.x 13#4 + (n.setWidth 32 <<< 2))
  | .tDecSp n => some (13#4, s.x 13#4 - (n.setWidth 32 <<< 2))
  | _ => none

/-- The encodings with no meaning of their own: coprocessor instructions and UNDEFINED (R203, R204, R288). -/
def isUnimplemented (i : Instr) : Bool :=
  match i with
  | .stc .. => true
  | .ldc .. => true
  | .cdp .. => true
  | .mcr .. => true
  | .mrc .. => true
  | .undefMulSpace .. => true
  | .undefSwapBit23 .. => true
  | .undefSwapBit20 .. => true
  | .undefSwapBit21 .. => true
  | .undefHalfStore .. => true
  | .undefTestBit7 .. => true
  | .undefTestLsl01 .. => true
  | .undefTestLo2 .. => true
  | .undefTestBit6Reg .. => true
  | .undefTestLo3 .. => true
  | .undefMrsLo1 .. => true
  | .undefMsrSpsrLo1 .. => true
  | .undefTestImm .. => true
  | .undefRegOffsetBit4 .. => true
  | .tUndefB1 => true
  | .tUndefB2 => true
  | .tUndefB6 => true
  | .tUndefB8 => true
  | .tUndefBe => true
  | .tUndefDe => true
  | .tUndefE8 => true
  | _ => false

/-- The software interrupts (R199, R283). -/
def isSwi (i : Instr) : Bool :=
  match i with
  | .swi .. => true
  | .tSwi .. => true
  | _ => false

/-- The instructions that may change CPSR.T by their own rule: BX, SWI, and those that may copy an SPSR to the CPSR
(R18, R90). -/
def mayChangeSet (i : Instr) (s : State) : Prop :=
  match i with
  | .bx .. => True
  | .tBx .. => True
  | .swi .. => True
  | .tSwi .. => True
  | .ldm _ _ _ sBit _ _ list => sBit = true ∧ (list.getLsbD 15 = true ∨ list = 0#16)
  | i => ∃ op c rn f, i = dpInstr op c true rn 15#4 f ∧ op.writesRd = true ∧ s.bankMode.hasSpsr = true

end Sys2Proof.Machine
end

