-- ==== Sys2Proof/Certificates/Slice0/Obligations.lean ====
section
/-! DEFINITION. The statements for the provers. Each docstring names the rule of spec/ it formalises. ARM instructions are
stated in ARM state and Thumb instructions in Thumb state, the only states they execute in (R83). An ARM
instruction's condition is universally quantified: it was tested when the instruction was fetched
(notes/assumptions/1.md), so a meaning does not read it. `s.params` is universally quantified with the state. `outs` is the
model's own record of the port calls (notes/assumptions/7.md), `reactions` what the environment does inside the coming ones
(notes/assumptions/5.md): a statement about memory says what the core's own calls do, and leaves out the bytes those reactions
write. `delay` is the extra cycles of `State.extraCycles`, the number of the table where `params.cycleCases` says nothing else
(notes/assumptions/23.md). At a misaligned `pc`, the advance to `pc + w` is the model's choice (notes/assumptions/21.md). Operands
the architecture calls UNPREDICTABLE run as the rules' pseudocode (notes/assumptions/9.md to 12.md), the model's choice wherever a
statement covers them. -/

open Sys2Proof Sys2Proof.Machine

/-! ## State, reset, status words -/

/-- R17, R30, R330: what reset leaves, for every boot convention, and at the spec's defaults: `SetMode` has been called, so that it
would change nothing. That memory lists nothing, nothing is awaited of the environment and nothing is recorded is the model's
choice (notes/assumptions/4.md, 6.md, 7.md). -/
def Obligations.ResetState : Prop :=
  (∀ (b : BootConvention) (p : Config.Params),
    let s := State.boot b p
    s.cpsr = b.resetCpsr ∧ Mode.ofBits (Psr.mode b.resetCpsr) = some s.bankMode ∧ s.resolveMode = .ok s ∧
      s.pc = b.resetPc ∧ s.pending = none ∧ s.delay = 0 ∧ s.dead = false ∧
      (∀ q : PReg, q ≠ .pc → s.reg q = b.regs.get q.index) ∧
      s.spsrFiq = b.spsrFiq ∧ s.spsrSvc = b.spsrSvc ∧ s.spsrAbt = b.spsrAbt ∧ s.spsrIrq = b.spsrIrq ∧
      s.spsrUnd = b.spsrUnd ∧ s.outs = [] ∧ s.mem = [] ∧ s.reactions = []) ∧
    State.reset.cpsr = 0x000000D3#32 ∧ State.reset.bankMode = .svc ∧ State.reset.pc = 0#32

/-- The invariant holds after reset, from every boot convention with an aligned start address, and at the default one. -/
def Obligations.ResetMeetsInvariant : Prop :=
  (∀ (b : BootConvention) (p : Config.Params),
    (b.resetPc &&& (if Psr.t b.resetCpsr then 1#32 else 3#32)) = 0#32 →
      (State.boot b p).inv ∧ (State.boot b p).stagedFresh) ∧
    State.reset.inv

/-- R14, R15: the bank map, mode by mode, and register access through it. -/
def Obligations.BankMap : Prop :=
  allRegs.map (phys .usr) = [.r0, .r1, .r2, .r3, .r4, .r5, .r6, .r7, .r8usr, .r9usr, .r10usr, .r11usr, .r12usr, .r13usr, .r14usr, .pc] ∧
  allRegs.map (phys .sys) = [.r0, .r1, .r2, .r3, .r4, .r5, .r6, .r7, .r8usr, .r9usr, .r10usr, .r11usr, .r12usr, .r13usr, .r14usr, .pc] ∧
  allRegs.map (phys .fiq) = [.r0, .r1, .r2, .r3, .r4, .r5, .r6, .r7, .r8fiq, .r9fiq, .r10fiq, .r11fiq, .r12fiq, .r13fiq, .r14fiq, .pc] ∧
  allRegs.map (phys .irq) = [.r0, .r1, .r2, .r3, .r4, .r5, .r6, .r7, .r8usr, .r9usr, .r10usr, .r11usr, .r12usr, .r13irq, .r14irq, .pc] ∧
  allRegs.map (phys .svc) = [.r0, .r1, .r2, .r3, .r4, .r5, .r6, .r7, .r8usr, .r9usr, .r10usr, .r11usr, .r12usr, .r13svc, .r14svc, .pc] ∧
  allRegs.map (phys .abt) = [.r0, .r1, .r2, .r3, .r4, .r5, .r6, .r7, .r8usr, .r9usr, .r10usr, .r11usr, .r12usr, .r13abt, .r14abt, .pc] ∧
  allRegs.map (phys .und) = [.r0, .r1, .r2, .r3, .r4, .r5, .r6, .r7, .r8usr, .r9usr, .r10usr, .r11usr, .r12usr, .r13und, .r14und, .pc] ∧
  ∀ (s : State) (i : Reg) (v : Word),
    s.x i = s.reg (phys s.bankMode i) ∧ s.xusr i = s.reg (phys .usr i) ∧ s.x 15#4 = s.pc ∧
      (i ≠ 15#4 → (s.setX i v).x i = v ∧ ∀ q, q ≠ phys s.bankMode i → (s.setX i v).reg q = s.reg q) ∧
      (s.setX 15#4 v).pc = (if s.thumb then v &&& 0xFFFFFFFE#32 else v &&& 0xFFFFFFFC#32) ∧
      ∀ q, q ≠ .pc → (s.setX 15#4 v).reg q = s.reg q

/-- R21: the current SPSR, read and written, in every mode. -/
def Obligations.SpsrAccess : Prop :=
  ∀ (s : State) (v : Word),
    (s.bankMode = .usr ∨ s.bankMode = .sys → s.spsrCur = s.cpsr ∧ s.setSpsrCur v = s) ∧
      (s.bankMode = .fiq → s.spsrCur = s.spsrFiq ∧ (s.setSpsrCur v).spsrFiq = v) ∧
      (s.bankMode = .svc → s.spsrCur = s.spsrSvc ∧ (s.setSpsrCur v).spsrSvc = v) ∧
      (s.bankMode = .abt → s.spsrCur = s.spsrAbt ∧ (s.setSpsrCur v).spsrAbt = v) ∧
      (s.bankMode = .irq → s.spsrCur = s.spsrIrq ∧ (s.setSpsrCur v).spsrIrq = v) ∧
      (s.bankMode = .und → s.spsrCur = s.spsrUnd ∧ (s.setSpsrCur v).spsrUnd = v) ∧
      (∀ m : Mode, m.hasSpsr = true → m ≠ s.bankMode → (s.setSpsrCur v).spsrOf m = s.spsrOf m) ∧
      (s.setSpsrCur v).cpsr = s.cpsr ∧ (s.setSpsrCur v).bankMode = s.bankMode ∧ (s.setSpsrCur v).regs = s.regs

/-- R13, R17, R22: the seven mode numbers; a valid number selects its bank map and nothing else changes; an invalid one
faults under STRICT and is otherwise a no-op. -/
def Obligations.SetMode : Prop :=
  (∀ b : BitVec 5, ∀ m : Mode, Mode.ofBits b = some m ↔ b = m.bits) ∧
    [Mode.usr, .fiq, .irq, .svc, .abt, .und, .sys].map Mode.bits = [0x10#5, 0x11#5, 0x12#5, 0x13#5, 0x17#5, 0x1B#5, 0x1F#5] ∧
    ∀ s : State,
      (∀ m : Mode, Psr.mode s.cpsr = m.bits → s.resolveMode = .ok { s with bankMode := m }) ∧
        ((∀ m : Mode, Psr.mode s.cpsr ≠ m.bits) →
          s.resolveMode = if s.params.strict then .error (.invalidMode (Psr.mode s.cpsr)) else .ok s)

/-- R86: the sixteen conditions over the four flag bits. -/
def Obligations.ConditionTable : Prop :=
  ∀ p : Word,
    let n := p.getLsbD 31
    let z := p.getLsbD 30
    let c := p.getLsbD 29
    let v := p.getLsbD 28
    (conditionPassed (Cond.ofBits 0x0#4) p = true ↔ z = true) ∧
      (conditionPassed (Cond.ofBits 0x1#4) p = true ↔ z = false) ∧
      (conditionPassed (Cond.ofBits 0x2#4) p = true ↔ c = true) ∧
      (conditionPassed (Cond.ofBits 0x3#4) p = true ↔ c = false) ∧
      (conditionPassed (Cond.ofBits 0x4#4) p = true ↔ n = true) ∧
      (conditionPassed (Cond.ofBits 0x5#4) p = true ↔ n = false) ∧
      (conditionPassed (Cond.ofBits 0x6#4) p = true ↔ v = true) ∧
      (conditionPassed (Cond.ofBits 0x7#4) p = true ↔ v = false) ∧
      (conditionPassed (Cond.ofBits 0x8#4) p = true ↔ c = true ∧ z = false) ∧
      (conditionPassed (Cond.ofBits 0x9#4) p = true ↔ c = false ∨ z = true) ∧
      (conditionPassed (Cond.ofBits 0xA#4) p = true ↔ n = v) ∧
      (conditionPassed (Cond.ofBits 0xB#4) p = true ↔ n ≠ v) ∧
      (conditionPassed (Cond.ofBits 0xC#4) p = true ↔ z = false ∧ n = v) ∧
      (conditionPassed (Cond.ofBits 0xD#4) p = true ↔ z = true ∨ n ≠ v) ∧
      conditionPassed (Cond.ofBits 0xE#4) p = true ∧ conditionPassed (Cond.ofBits 0xF#4) p = false

/-! ## Shifter, adder, operations -/

/-- R101: the shifter with an immediate amount. -/
def Obligations.ShiftImmediate : Prop :=
  ∀ (v : Word) (n : BitVec 5) (cin : Bool),
    let s := n.toNat
    (s = 0 →
      shift .lsl v s cin .imm = ⟨v, cin⟩ ∧ shift .lsr v s cin .imm = ⟨0#32, v.getLsbD 31⟩ ∧
        shift .asr v s cin .imm = ⟨if v.getLsbD 31 then 0xFFFFFFFF#32 else 0#32, v.getLsbD 31⟩ ∧
        (shift .ror v s cin .imm).carry = v.getLsbD 0 ∧ (shift .ror v s cin .imm).value.getLsbD 31 = cin ∧
        (shift .ror v s cin .imm).value &&& 0x7FFFFFFF#32 = v >>> 1) ∧
      (1 ≤ s →
        shift .lsl v s cin .imm = ⟨v <<< s, v.getLsbD (32 - s)⟩ ∧ shift .lsr v s cin .imm = ⟨v >>> s, v.getLsbD (s - 1)⟩ ∧
          shift .asr v s cin .imm = ⟨v.sshiftRight s, v.getLsbD (s - 1)⟩ ∧
          shift .ror v s cin .imm = ⟨v.rotateRight s, v.getLsbD (s - 1)⟩)

/-- R102: the shifter with an amount from a register, 0 to 255. -/
def Obligations.ShiftRegister : Prop :=
  ∀ (v : Word) (n : BitVec 8) (cin : Bool),
    let s := n.toNat
    (s = 0 → ∀ k : ShiftKind, shift k v s cin .reg = ⟨v, cin⟩) ∧
      (1 ≤ s → s ≤ 31 →
        shift .lsl v s cin .reg = ⟨v <<< s, v.getLsbD (32 - s)⟩ ∧ shift .lsr v s cin .reg = ⟨v >>> s, v.getLsbD (s - 1)⟩ ∧
          shift .asr v s cin .reg = ⟨v.sshiftRight s, v.getLsbD (s - 1)⟩ ∧
          shift .ror v s cin .reg = ⟨v.rotateRight s, v.getLsbD (s - 1)⟩) ∧
      (s = 32 →
        shift .lsl v s cin .reg = ⟨0#32, v.getLsbD 0⟩ ∧ shift .lsr v s cin .reg = ⟨0#32, v.getLsbD 31⟩ ∧
          shift .ror v s cin .reg = ⟨v, v.getLsbD 31⟩) ∧
      (33 ≤ s → shift .lsl v s cin .reg = ⟨0#32, false⟩ ∧ shift .lsr v s cin .reg = ⟨0#32, false⟩) ∧
      (32 ≤ s → shift .asr v s cin .reg = ⟨if v.getLsbD 31 then 0xFFFFFFFF#32 else 0#32, v.getLsbD 31⟩) ∧
      (33 ≤ s → s % 32 = 0 → shift .ror v s cin .reg = ⟨v, v.getLsbD 31⟩) ∧
      (33 ≤ s → s % 32 ≠ 0 → shift .ror v s cin .reg = ⟨v.rotateRight (s % 32), v.getLsbD (s % 32 - 1)⟩)

/-- R106: the rotated immediate and its carry. -/
def Obligations.ImmediateOperand : Prop :=
  ∀ (rotate : BitVec 4) (imm8 : BitVec 8) (cin : Bool),
    let r := (imm8.setWidth 32).rotateRight (2 * rotate.toNat)
    (immOperand rotate imm8 cin).value = r ∧
      (rotate = 0#4 → (immOperand rotate imm8 cin).carry = cin) ∧
      (rotate ≠ 0#4 → (immOperand rotate imm8 cin).carry = r.getLsbD 31)

/-- R108: the adder, over exact numbers: the result modulo 2^32, the carry of the 33-bit sum, the signed overflow; and
what that makes of a subtraction. -/
def Obligations.Adder : Prop :=
  (∀ (a b : Word) (c : Bool),
    let o := addWithCarry a b c
    o.r = a + b + BitVec.ofNat 32 c.toNat ∧
      (o.c = true ↔ 2 ^ 32 ≤ a.toNat + b.toNat + c.toNat) ∧
      (o.v = true ↔ a.toInt + b.toInt + (c.toNat : Int) < -2 ^ 31 ∨ 2 ^ 31 ≤ a.toInt + b.toInt + (c.toNat : Int)) ∧
      (o.v = true ↔ a.getLsbD 31 = b.getLsbD 31 ∧ o.r.getLsbD 31 ≠ a.getLsbD 31)) ∧
    ∀ a b : Word,
      let o := addWithCarry a (~~~b) true
      o.r = a - b ∧ (o.c = true ↔ b.toNat ≤ a.toNat) ∧
        (o.v = true ↔ a.toInt - b.toInt < -2 ^ 31 ∨ 2 ^ 31 ≤ a.toInt - b.toInt)

/-- R109, R110, R111: the sixteen operations: result, C and V, and which write Rd. -/
def Obligations.AluTable : Prop :=
  ∀ (a b : Word) (sc c v : Bool),
    AluOp.eval .and a b sc c v = ⟨a &&& b, sc, v⟩ ∧ AluOp.eval .eor a b sc c v = ⟨a ^^^ b, sc, v⟩ ∧
      AluOp.eval .sub a b sc c v = addWithCarry a (~~~b) true ∧ AluOp.eval .rsb a b sc c v = addWithCarry b (~~~a) true ∧
      AluOp.eval .add a b sc c v = addWithCarry a b false ∧ AluOp.eval .adc a b sc c v = addWithCarry a b c ∧
      AluOp.eval .sbc a b sc c v = addWithCarry a (~~~b) c ∧ AluOp.eval .rsc a b sc c v = addWithCarry b (~~~a) c ∧
      AluOp.eval .tst a b sc c v = ⟨a &&& b, sc, v⟩ ∧ AluOp.eval .teq a b sc c v = ⟨a ^^^ b, sc, v⟩ ∧
      AluOp.eval .cmp a b sc c v = addWithCarry a (~~~b) true ∧ AluOp.eval .cmn a b sc c v = addWithCarry a b false ∧
      AluOp.eval .orr a b sc c v = ⟨a ||| b, sc, v⟩ ∧ AluOp.eval .mov a b sc c v = ⟨b, sc, v⟩ ∧
      AluOp.eval .bic a b sc c v = ⟨a &&& ~~~b, sc, v⟩ ∧ AluOp.eval .mvn a b sc c v = ⟨~~~b, sc, v⟩ ∧
      ∀ op : AluOp, op.writesRd = false ↔ op = .tst ∨ op = .teq ∨ op = .cmp ∨ op = .cmn

/-! ## ARM data processing -/

/-- R120 with R123 to R130 and R135 to R138: a data-processing instruction that writes a register other than r15, in its
three operand forms: the result, the flags with S, and everything it leaves as it was. r15 as Rs is the model's
choice (notes/assumptions/10.md). -/
def Obligations.DataProcessingWritesRegister : Prop :=
  ∀ (op : AluOp) (c : Cond) (setFlags : Bool) (rn rd : Reg) (f : DpForm) (s : State),
    s.thumb = false → op.writesRd = true → rd ≠ 15#4 →
      ∃ t, exec (dpInstr op c setFlags rn rd f) s = .next t ∧
        let o := f.out op s rn
        t.x rd = o.r ∧ (setFlags = true → FlagsAre s t (o.r.getLsbD 31) (o.r == 0#32) o.c o.v) ∧
          (setFlags = false → t.cpsr = s.cpsr) ∧ t.pc = s.pc + 4#32 ∧ RegsKept s t [phys s.bankMode rd] ∧ MemKept s t ∧
          SystemKept s t ∧ t.outs = s.outs ∧ t.delay = s.extraCycles false (f.shiftCycles s)

/-- R122, R131 to R134: TST, TEQ, CMP, CMN write the flags and nothing else, whatever the field Rd holds. r15 as Rs is the
model's choice (notes/assumptions/10.md). -/
def Obligations.DataProcessingCompares : Prop :=
  ∀ (op : AluOp) (c : Cond) (setFlags : Bool) (rn rd : Reg) (f : DpForm) (s : State),
    s.thumb = false → op.writesRd = false →
      ∃ t, exec (dpInstr op c setFlags rn rd f) s = .next t ∧
        let o := f.out op s rn
        FlagsAre s t (o.r.getLsbD 31) (o.r == 0#32) o.c o.v ∧ t.pc = s.pc + 4#32 ∧ RegsKept s t [] ∧ MemKept s t ∧
          SystemKept s t ∧ t.outs = s.outs ∧ t.delay = s.extraCycles false (f.shiftCycles s)

/-- R120, R90: Rd = 15 without S is a branch to the result, aligned to 4. r15 as Rs is the model's choice (notes/assumptions/10.md). -/
def Obligations.DataProcessingBranches : Prop :=
  ∀ (op : AluOp) (c : Cond) (rn : Reg) (f : DpForm) (s : State),
    s.thumb = false → op.writesRd = true →
      ∃ t, exec (dpInstr op c false rn 15#4 f) s = .next t ∧
        t.pc = (f.out op s rn).r &&& 0xFFFFFFFC#32 ∧ t.cpsr = s.cpsr ∧ RegsKept s t [] ∧ MemKept s t ∧ SystemKept s t ∧
          t.outs = s.outs ∧ t.delay = s.extraCycles true (f.shiftCycles s + s.params.cycles.pcWrite)

/-- R121: Rd = 15 with S. In a mode with an SPSR the CPSR takes it whole; in USR and SYS the flags stay; the mode is
resolved, and the target is aligned by the T bit then in force. An invalid mode number faults under STRICT. r15 as Rs is the
model's choice (notes/assumptions/10.md). -/
def Obligations.DataProcessingReturns : Prop :=
  ∀ (op : AluOp) (c : Cond) (rn : Reg) (f : DpForm) (s : State),
    s.thumb = false → op.writesRd = true →
      let o := f.out op s rn
      let saved := if s.bankMode.hasSpsr then s.spsrOf s.bankMode
        else Psr.withFlags s.cpsr (o.r.getLsbD 31) (o.r == 0#32) o.c o.v
      let i := dpInstr op c true rn 15#4 f
      (Mode.ofBits (Psr.mode saved) = none → s.params.strict = true → exec i s = .fault (.invalidMode (Psr.mode saved))) ∧
        (Mode.ofBits (Psr.mode saved) ≠ none ∨ s.params.strict = false →
          ∃ t, exec i s = .next t ∧ t.cpsr = saved ∧ t.bankMode = (Mode.ofBits (Psr.mode saved)).getD s.bankMode ∧
            t.pc = o.r &&& (if Psr.t saved then 0xFFFFFFFE#32 else 0xFFFFFFFC#32) ∧ RegsKept s t [] ∧ MemKept s t ∧
            SpsrsKept s t ∧ StepperKept s t ∧ t.outs = s.outs ∧
            t.delay = s.extraCycles true (f.shiftCycles s + s.params.cycles.pcWrite))

/-! ## Multiplies -/

/-- R150, R151, R152, R157: MUL and MLA over exact numbers, with every register as source and destination; r15 as the
model chose (notes/assumptions/9.md). -/
def Obligations.MultiplyShort : Prop :=
  ∀ (c : Cond) (setFlags acc : Bool) (rd rn rs rm : Reg) (s : State), s.thumb = false →
    ∃ t, exec (if acc then .mla c setFlags rd rn rs rm else .mul c setFlags rd rn rs rm) s = .next t ∧
      let r := BitVec.ofNat 32
        ((s.armOperand rm).toNat * (s.armOperand rs).toNat + if acc then (s.armOperand rn).toNat else 0)
      (rd ≠ 15#4 → t.x rd = r) ∧ t.pc = (if rd = 15#4 then r &&& 0xFFFFFFFC#32 else s.pc + 4#32) ∧
        (setFlags = true → FlagsAre s t (r.getLsbD 31) (r == 0#32) false false) ∧
        (setFlags = false → t.cpsr = s.cpsr) ∧ RegsKept s t [phys s.bankMode rd] ∧ MemKept s t ∧ SystemKept s t ∧
        t.outs = s.outs ∧
        t.delay = s.extraCycles (rd = 15#4)
          (multiplierCycles (s.armOperand rs) true + if acc then s.params.cycles.mla else s.params.cycles.mul)

/-- R150, R153 to R157: the four long multiplies over exact numbers. With RdHi = RdLo the high word is written last,
and r15 is as the model chose (notes/assumptions/9.md). -/
def Obligations.MultiplyLong : Prop :=
  ∀ (c : Cond) (setFlags isSigned acc : Bool) (rdHi rdLo rs rm : Reg) (s : State), s.thumb = false →
    let i : Instr := match isSigned, acc with
      | false, false => .umull c setFlags rdHi rdLo rs rm
      | false, true => .umlal c setFlags rdHi rdLo rs rm
      | true, false => .smull c setFlags rdHi rdLo rs rm
      | true, true => .smlal c setFlags rdHi rdLo rs rm
    ∃ t, exec i s = .next t ∧
      let a := s.armOperand rm
      let b := s.armOperand rs
      let old : BitVec 64 := s.armOperand rdHi ++ s.armOperand rdLo
      let p : BitVec 64 := BitVec.ofInt 64
        ((if isSigned then a.toInt * b.toInt else (a.toNat : Int) * (b.toNat : Int)) + if acc then (old.toNat : Int) else 0)
      let hi : Word := p.extractLsb' 32 32
      let lo : Word := p.extractLsb' 0 32
      (rdHi ≠ 15#4 → t.x rdHi = hi) ∧ (rdLo ≠ 15#4 → rdLo ≠ rdHi → t.x rdLo = lo) ∧
        t.pc = (if rdHi = 15#4 then hi &&& 0xFFFFFFFC#32 else if rdLo = 15#4 then lo &&& 0xFFFFFFFC#32 else s.pc + 4#32) ∧
        (setFlags = true → FlagsAre s t (p.getLsbD 63) (p == 0#64) false false) ∧
        (setFlags = false → t.cpsr = s.cpsr) ∧ RegsKept s t [phys s.bankMode rdHi, phys s.bankMode rdLo] ∧
        MemKept s t ∧ SystemKept s t ∧ t.outs = s.outs ∧
        t.delay = s.extraCycles (rdLo = 15#4 ∨ rdHi = 15#4)
          (multiplierCycles b isSigned + if acc then s.params.cycles.mlal else s.params.cycles.mull)

/-! ## Single transfers -/

/-- R160, R170, R113: the address, the write-back and the new base of the single transfers. -/
def Obligations.TransferAddressing : Prop :=
  ∀ (s : State) (p u w : Bool) (rn : Reg), s.thumb = false →
    (∀ imm12 : BitVec 12, (Offset.imm imm12).addressed s p u w rn =
      let base := s.armOperand rn
      let idx := if u then base + BitVec.ofNat 32 imm12.toNat else base - BitVec.ofNat 32 imm12.toNat
      ⟨if p then idx else base, !p || w, idx⟩) ∧
    (∀ (n : BitVec 5) (k : ShiftKind) (rm : Reg), (Offset.reg n k rm).addressed s p u w rn =
      let base := s.armOperand rn
      let off := (shift k (s.armOperand rm) n.toNat (Psr.c s.cpsr) .imm).value
      let idx := if u then base + off else base - off
      ⟨if p then idx else base, !p || w, idx⟩) ∧
    (∀ immH immL : BitVec 4, (HalfOffset.imm immH immL).addressed s p u w rn =
      let base := s.armOperand rn
      let off := BitVec.ofNat 32 (16 * immH.toNat + immL.toNat)
      let idx := if u then base + off else base - off
      ⟨if p then idx else base, !p || w, idx⟩) ∧
    (∀ rm : Reg, (HalfOffset.reg rm).addressed s p u w rn =
      let base := s.armOperand rn
      let idx := if u then base + s.armOperand rm else base - s.armOperand rm
      ⟨if p then idx else base, !p || w, idx⟩)

/-- R161, R163, R165, R166: LDR, LDRB and their T forms, with every register as base and destination. That a byte
load into r15 counts as a load into `pc` is the model's choice (notes/assumptions/12.md). -/
def Obligations.ArmLoads : Prop :=
  ∀ (byte : Bool) (o : Offset) (c : Cond) (p u w : Bool) (rn rd : Reg) (s : State), s.thumb = false →
    ∃ t, exec (transferInstr true byte o c p u w rn rd) s = .next t ∧
      let a := o.addressed s p u w rn
      let k : LoadKind := if byte then .byte else .word
      let v := k.value s.mem a.addr
      (rd ≠ 15#4 → t.x rd = v) ∧ (a.writeBack = true → rn ≠ 15#4 → rn ≠ rd → t.x rn = a.newBase) ∧
        t.pc = (if rd = 15#4 then v &&& 0xFFFFFFFC#32
          else if a.writeBack ∧ rn = 15#4 then a.newBase &&& 0xFFFFFFFC#32 else s.pc + 4#32) ∧
        RegsKept s t (phys s.bankMode rd :: if a.writeBack then [phys s.bankMode rn] else []) ∧ t.cpsr = s.cpsr ∧
        MemKeptBut s t 1 ∧ CoreKept s t ∧ Calls s t [k.call s.mem a.addr] ∧
        t.delay = s.extraCycles (a.writeBack ∧ rn = 15#4 ∨ rd = 15#4)
          (if rd = 15#4 then s.params.cycles.loadPc else s.params.cycles.load)

/-- R162, R164, R165, R166: STR, STRB and their T forms: the bytes stored, the write-back, and every other byte as before. -/
def Obligations.ArmStores : Prop :=
  ∀ (byte : Bool) (o : Offset) (c : Cond) (p u w : Bool) (rn rd : Reg) (s : State), s.thumb = false → s.mem.wf →
    ∃ t, exec (transferInstr false byte o c p u w rn rd) s = .next t ∧
      let a := o.addressed s p u w rn
      let z : Size := if byte then .byte else .word
      ((∀ k < z.bytes, s.Untouched 1 (z.storeAddress a.addr + BitVec.ofNat 32 k)) →
        z.readBack t.mem (z.storeAddress a.addr) = z.part (s.armStored rd)) ∧
        MemKeptOutside s t (z.storeAddress a.addr) z.bytes 1 ∧
        (a.writeBack = true → rn ≠ 15#4 → t.x rn = a.newBase) ∧
        t.pc = (if a.writeBack ∧ rn = 15#4 then a.newBase &&& 0xFFFFFFFC#32 else s.pc + 4#32) ∧
        RegsKept s t (if a.writeBack then [phys s.bankMode rn] else []) ∧ t.cpsr = s.cpsr ∧ CoreKept s t ∧
        Calls s t [.write z (z.storeAddress a.addr) (z.part (s.armStored rd))] ∧
        t.delay = s.extraCycles (a.writeBack ∧ rn = 15#4) s.params.cycles.store

/-- R171, R173, R174, R45, R166: LDRH, LDRSB, LDRSH; the two cases that R45 lets a model refuse are refused under that parameter. That
a load of these into r15 counts as a load into `pc` is the model's choice (notes/assumptions/12.md). -/
def Obligations.ArmHalfLoads : Prop :=
  ∀ (k : LoadKind) (o : HalfOffset) (c : Cond) (p u w : Bool) (rn rd : Reg) (i : Instr) (s : State), s.thumb = false →
    halfLoadInstr k o c p u w rn rd = some i →
      let a := o.addressed s p u w rn
      let v := k.value s.mem a.addr
      (k.refuses s a.addr = true → exec i s = .refused .misalignedHalfword) ∧
        (k.refuses s a.addr = false →
          ∃ t, exec i s = .next t ∧ (rd ≠ 15#4 → t.x rd = v) ∧
            (a.writeBack = true → rn ≠ 15#4 → rn ≠ rd → t.x rn = a.newBase) ∧
            t.pc = (if rd = 15#4 then v &&& 0xFFFFFFFC#32
              else if a.writeBack ∧ rn = 15#4 then a.newBase &&& 0xFFFFFFFC#32 else s.pc + 4#32) ∧
            RegsKept s t (phys s.bankMode rd :: if a.writeBack then [phys s.bankMode rn] else []) ∧ t.cpsr = s.cpsr ∧
            MemKeptBut s t 1 ∧ CoreKept s t ∧ Calls s t [k.call s.mem a.addr] ∧
            t.delay = s.extraCycles (a.writeBack ∧ rn = 15#4 ∨ rd = 15#4)
              (if rd = 15#4 then s.params.cycles.loadPc else s.params.cycles.load))

/-- R172, R166: STRH. -/
def Obligations.ArmHalfStores : Prop :=
  ∀ (o : HalfOffset) (c : Cond) (p u w : Bool) (rn rd : Reg) (s : State), s.thumb = false → s.mem.wf →
    ∃ t, exec (halfStoreInstr o c p u w rn rd) s = .next t ∧
      let a := o.addressed s p u w rn
      let z : Size := .half
      ((∀ k < z.bytes, s.Untouched 1 (z.storeAddress a.addr + BitVec.ofNat 32 k)) →
        z.readBack t.mem (z.storeAddress a.addr) = z.part (s.armStored rd)) ∧
        MemKeptOutside s t (z.storeAddress a.addr) z.bytes 1 ∧
        (a.writeBack = true → rn ≠ 15#4 → t.x rn = a.newBase) ∧
        t.pc = (if a.writeBack ∧ rn = 15#4 then a.newBase &&& 0xFFFFFFFC#32 else s.pc + 4#32) ∧
        RegsKept s t (if a.writeBack then [phys s.bankMode rn] else []) ∧ t.cpsr = s.cpsr ∧ CoreKept s t ∧
        Calls s t [.write z (z.storeAddress a.addr) (z.part (s.armStored rd))] ∧
        t.delay = s.extraCycles (a.writeBack ∧ rn = 15#4) s.params.cycles.store

/-- R176, R177: SWP and SWPB: the old value to Rd, Rm's old value to memory, two port calls in order; r15 as the model chose
(notes/assumptions/9.md). -/
def Obligations.Swap : Prop :=
  ∀ (byte : Bool) (c : Cond) (rn rd rm : Reg) (s : State), s.thumb = false → s.mem.wf →
    ∃ t, exec (if byte then .swpb c rn rd rm else .swp c rn rd rm) s = .next t ∧
      let a := s.armOperand rn
      let k : LoadKind := if byte then .byte else .word
      let z : Size := if byte then .byte else .word
      let v := k.value s.mem a
      (rd ≠ 15#4 → t.x rd = v) ∧ t.pc = (if rd = 15#4 then v &&& 0xFFFFFFFC#32 else s.pc + 4#32) ∧
        ((∀ k < z.bytes, s.Untouched 2 (z.storeAddress a + BitVec.ofNat 32 k)) →
          z.readBack t.mem (z.storeAddress a) = z.part (s.armOperand rm)) ∧
        MemKeptOutside s t (z.storeAddress a) z.bytes 2 ∧
        RegsKept s t [phys s.bankMode rd] ∧ t.cpsr = s.cpsr ∧ CoreKept s t ∧
        Calls s t [k.call s.mem a, .write z (z.storeAddress a) (z.part (s.armOperand rm))] ∧
        t.delay = s.extraCycles (rd = 15#4) s.params.cycles.swap

/-! ## Block transfers -/

/-- R181: where a block of n words starts and where it leaves the base, in the four modes. -/
def Obligations.BlockRange : Prop :=
  ∀ (base : Word) (n : Nat),
    blockAddr base n false true = ⟨base, base + BitVec.ofNat 32 (4 * n)⟩ ∧
      blockAddr base n true true = ⟨base + 4#32, base + BitVec.ofNat 32 (4 * n)⟩ ∧
      blockAddr base n false false = ⟨base - BitVec.ofNat 32 (4 * n) + 4#32, base - BitVec.ofNat 32 (4 * n)⟩ ∧
      blockAddr base n true false = ⟨base - BitVec.ofNat 32 (4 * n), base - BitVec.ofNat 32 (4 * n)⟩

/-- R183, R184, R186, R267, R269, R271: STM, PUSH and Thumb STMIA: the word stored for each register in order, the
write-back, and every byte outside the stored words as before. r15 as the base, and the words stored after its
write-back, are the model's choice (notes/assumptions/11.md). -/
def Obligations.BlockStores : Prop :=
  ∀ (i : Instr) (f : BlockFields) (s : State), blockStoreOf i = some f → s.thumb = i.isThumb → i.wf = true → s.mem.wf →
    ∃ t, exec i s = .next t ∧
      (∀ (k : Nat) (h : k < (f.regs s).length),
        (∀ j < 4, s.Untouched (f.regs s).length (f.wordAddress s k + BitVec.ofNat 32 j)) →
          t.mem.read32 (f.wordAddress s k) = f.stored s k (f.regs s)[k]) ∧
      (∀ a : Word, (∀ k, k < (f.regs s).length → a &&& 0xFFFFFFFC#32 ≠ f.wordAddress s k) →
        s.Untouched (f.regs s).length a → t.mem.read8 a = s.mem.read8 a) ∧
      (f.w = true → f.rn ≠ 15#4 → t.x f.rn = (f.range s).final) ∧
      RegsKept s t (if f.w then [phys s.bankMode f.rn] else []) ∧
      t.pc = (if f.w ∧ f.rn = 15#4 then (f.range s).final &&& 0xFFFFFFFC#32
        else s.pc + if s.thumb then 2#32 else 4#32) ∧
      t.cpsr = s.cpsr ∧ CoreKept s t ∧
      Calls s t ((f.regs s).mapIdx fun k r => .write .word (f.wordAddress s k) (f.stored s k r)) ∧
      t.delay = s.extraCycles (f.w ∧ f.rn = 15#4) s.params.cycles.store

/-- R183, R184, R185, R268, R270, R271: LDM, POP and Thumb LDMIA but for the exception return: the register each word
goes to, the write-back, which a loaded base overrides, and a loaded r15. Each word is read once the environment has reacted to
the reads before it. r15 as the base is the model's choice (notes/assumptions/11.md). -/
def Obligations.BlockLoads : Prop :=
  ∀ (i : Instr) (f : BlockFields) (s : State), blockLoadOf i = some f → s.thumb = i.isThumb → i.wf = true →
    ¬ (f.sBit = true ∧ 15#4 ∈ f.regs s) →
      ∃ t, exec i s = .next t ∧
        let word := fun k => (s.environment.reacted k).mem.read32 (f.wordAddress s k)
        let written := (f.regs s).map (f.target s)
        (∀ (k : Nat) (h : k < (f.regs s).length), (f.regs s)[k] ≠ 15#4 → t.reg (f.target s (f.regs s)[k]) = word k) ∧
        (f.w = true → f.rn ≠ 15#4 → phys s.bankMode f.rn ∉ written → t.x f.rn = (f.range s).final) ∧
        RegsKept s t (written ++ if f.w then [phys s.bankMode f.rn] else []) ∧
        t.pc = (if 15#4 ∈ f.regs s then
            word ((f.regs s).length - 1) &&& (if s.thumb then 0xFFFFFFFE#32 else 0xFFFFFFFC#32)
          else if f.w ∧ f.rn = 15#4 then (f.range s).final &&& 0xFFFFFFFC#32
          else s.pc + if s.thumb then 2#32 else 4#32) ∧
        t.cpsr = s.cpsr ∧ MemKeptBut s t (f.regs s).length ∧ CoreKept s t ∧
        Calls s t ((f.regs s).mapIdx fun k _ => .read .word (f.wordAddress s k) (word k)) ∧
        t.delay = s.extraCycles (15#4 ∈ f.regs s ∨ f.w ∧ f.rn = 15#4)
          (if 15#4 ∈ f.regs s then s.params.cycles.loadPc else s.params.cycles.load)

/-- R184 case 1, R185: LDM with S and r15 in the list: the registers of the mode before, then the CPSR from its SPSR, the
mode, and a `pc` aligned by the restored T. r15 as the base is the model's choice (notes/assumptions/11.md). -/
def Obligations.BlockLoadReturns : Prop :=
  ∀ (c : Cond) (p u w : Bool) (rn : Reg) (list : BitVec 16) (s : State), s.thumb = false →
    let f : BlockFields := ⟨p, u, true, w, rn, list⟩
    15#4 ∈ f.regs s →
      let i := Instr.ldm c p u true w rn list
      let saved := if s.bankMode.hasSpsr then s.spsrOf s.bankMode else s.cpsr
      let word := fun k => (s.environment.reacted k).mem.read32 (f.wordAddress s k)
      let written := (f.regs s).map (phys s.bankMode)
      (Mode.ofBits (Psr.mode saved) = none → s.params.strict = true → exec i s = .fault (.invalidMode (Psr.mode saved))) ∧
        (Mode.ofBits (Psr.mode saved) ≠ none ∨ s.params.strict = false →
          ∃ t, exec i s = .next t ∧
            (∀ (k : Nat) (h : k < (f.regs s).length), (f.regs s)[k] ≠ 15#4 → t.reg (phys s.bankMode (f.regs s)[k]) = word k) ∧
            (w = true → rn ≠ 15#4 → rn ∉ f.regs s → t.reg (phys s.bankMode rn) = (f.range s).final) ∧
            RegsKept s t (written ++ if w then [phys s.bankMode rn] else []) ∧ t.cpsr = saved ∧
            t.bankMode = (Mode.ofBits (Psr.mode saved)).getD s.bankMode ∧
            t.pc = word ((f.regs s).length - 1) &&& (if Psr.t saved then 0xFFFFFFFE#32 else 0xFFFFFFFC#32) ∧
            MemKeptBut s t (f.regs s).length ∧ SpsrsKept s t ∧ StagingKept s t ∧
            Calls s t ((f.regs s).mapIdx fun k _ => .read .word (f.wordAddress s k) (word k)) ∧
            t.delay = s.extraCycles true s.params.cycles.loadPc)

/-! ## Branches, exceptions by instruction, status-register transfer -/

/-- R190, R191, R284: B, BL and Thumb B. -/
def Obligations.Branches : Prop :=
  (∀ (c : Cond) (imm24 : BitVec 24) (s : State), s.thumb = false → s.pcAligned →
    (∃ t, exec (.b c imm24) s = .next t ∧ t.pc = s.pc + 8#32 + BitVec.ofInt 32 (4 * imm24.toInt) ∧ RegsKept s t [] ∧
      t.cpsr = s.cpsr ∧ MemKept s t ∧ SystemKept s t ∧ t.outs = s.outs ∧ t.delay = s.extraCycles true s.params.cycles.branch) ∧
    ∃ t, exec (.bl c imm24) s = .next t ∧ t.pc = s.pc + 8#32 + BitVec.ofInt 32 (4 * imm24.toInt) ∧
      t.x 14#4 = s.pc + 4#32 ∧ RegsKept s t [phys s.bankMode 14#4] ∧ t.cpsr = s.cpsr ∧ MemKept s t ∧ SystemKept s t ∧
      t.outs = s.outs ∧ t.delay = s.extraCycles true s.params.cycles.branchLink) ∧
    ∀ (offset11 : BitVec 11) (s : State), s.thumb = true → s.pcAligned →
      ∃ t, exec (.tB offset11) s = .next t ∧ t.pc = s.pc + 4#32 + BitVec.ofInt 32 (2 * offset11.toInt) ∧ RegsKept s t [] ∧
        t.cpsr = s.cpsr ∧ MemKept s t ∧ SystemKept s t ∧ t.outs = s.outs ∧ t.delay = s.extraCycles true s.params.cycles.branch

/-- R192, R241: BX in both sets, from every register: T from bit 0 and nothing else of the CPSR, the target aligned by it. -/
def Obligations.BranchExchange : Prop :=
  ∀ (c : Cond) (h1 : Bool) (r : Reg) (i : Instr) (s : State), i = .bx c r ∨ i = .tBx h1 r → s.thumb = i.isThumb →
    let v := if s.thumb then s.thumbOperand r else s.armOperand r
    ∃ t, exec i s = .next t ∧ t.thumb = v.getLsbD 0 ∧ t.cpsr &&& 0xFFFFFFDF#32 = s.cpsr &&& 0xFFFFFFDF#32 ∧
      t.pc = v &&& (if v.getLsbD 0 then 0xFFFFFFFE#32 else 0xFFFFFFFC#32) ∧ RegsKept s t [] ∧ MemKept s t ∧
      SystemKept s t ∧ t.outs = s.outs ∧ t.delay = s.extraCycles true s.params.cycles.branch

/-- R280, R343: the fourteen Thumb conditional branches from an aligned `pc`, taken and not taken. The extra cycles are R343's, 0 when
not taken, unless a case of `params.cycleCases` says otherwise, which is the model's shape of `ExtraCycles`
(notes/assumptions/23.md). -/
def Obligations.ThumbConditionalBranches : Prop :=
  ∀ (c : Cond) (soffset8 : BitVec 8) (i : Instr) (s : State), thumbBranch c soffset8 = some i → s.thumb = true → s.pcAligned →
    ∃ t, exec i s = .next t ∧
      (conditionPassed c s.cpsr = true →
        t.pc = s.pc + 4#32 + BitVec.ofInt 32 (2 * soffset8.toInt) ∧ t.delay = s.extraCycles true s.params.cycles.branch) ∧
      (conditionPassed c s.cpsr = false → t.pc = s.pc + 2#32 ∧ t.delay = s.extraCycles false 0) ∧
      RegsKept s t [] ∧ t.cpsr = s.cpsr ∧ MemKept s t ∧ SystemKept s t ∧ t.outs = s.outs

/-- R285, R286: the two halves of Thumb BL, each on its own. -/
def Obligations.ThumbBranchLinkHalves : Prop :=
  ∀ (offset11 : BitVec 11) (s : State), s.thumb = true →
    (∃ t, exec (.tBlHigh offset11) s = .next t ∧ t.x 14#4 = s.pc + 4#32 + BitVec.ofInt 32 (4096 * offset11.toInt) ∧
      t.pc = s.pc + 2#32 ∧ RegsKept s t [phys s.bankMode 14#4] ∧ t.cpsr = s.cpsr ∧ MemKept s t ∧ SystemKept s t ∧
      t.outs = s.outs ∧ t.delay = s.extraCycles false 0) ∧
    ∃ t, exec (.tBlLow offset11) s = .next t ∧ t.x 14#4 = (s.pc + 2#32) ||| 1#32 ∧
      t.pc = (s.x 14#4 + BitVec.ofNat 32 (2 * offset11.toNat)) &&& 0xFFFFFFFE#32 ∧ RegsKept s t [phys s.bankMode 14#4] ∧
      t.cpsr = s.cpsr ∧ MemKept s t ∧ SystemKept s t ∧ t.outs = s.outs ∧
      t.delay = s.extraCycles true s.params.cycles.branchLink

/-- R287: the two halves one after the other branch by the joined 22-bit offset and link to the instruction after the pair. -/
def Obligations.ThumbBranchLinkPair : Prop :=
  ∀ (hi lo : BitVec 11) (s : State), s.thumb = true → s.pcAligned →
    ∃ t u, exec (.tBlHigh hi) s = .next t ∧ exec (.tBlLow lo) t = .next u ∧
      u.pc = s.pc + 4#32 + BitVec.ofInt 32 (2 * (hi ++ lo : BitVec 22).toInt) ∧ u.x 14#4 = (s.pc + 4#32) ||| 1#32 ∧
      RegsKept s u [phys s.bankMode 14#4] ∧ u.cpsr = s.cpsr ∧ MemKept s u ∧ SystemKept s u

/-- R199, R283, R304: SWI from either set and from every mode: what is saved, what the status word becomes, where `pc` goes. -/
def Obligations.SoftwareInterrupts : Prop :=
  ∀ (i : Instr) (s : State), isSwi i = true → s.thumb = i.isThumb →
    ∃ t, exec i s = .next t ∧ t.spsrSvc = s.cpsr ∧ t.cpsr = (s.cpsr &&& 0xFFFFFF40#32) ||| 0x93#32 ∧ t.bankMode = .svc ∧
      t.reg .r14svc = s.pc + (if s.thumb then 2#32 else 4#32) ∧ t.pc = 0x00000008#32 ∧ RegsKept s t [.r14svc] ∧
      t.spsrFiq = s.spsrFiq ∧ t.spsrAbt = s.spsrAbt ∧ t.spsrIrq = s.spsrIrq ∧ t.spsrUnd = s.spsrUnd ∧ MemKept s t ∧
      StepperKept s t ∧ t.outs = s.outs ∧ t.delay = s.extraCycles true s.params.cycles.swi

/-- R194, R21: MRS of the CPSR and of the SPSR into every register; in USR and SYS the SPSR reads as the CPSR. -/
def Obligations.StatusRead : Prop :=
  ∀ (c : Cond) (spsr : Bool) (rd : Reg) (s : State), s.thumb = false →
    ∃ t, exec (.mrs c spsr rd) s = .next t ∧
      let v := if spsr && s.bankMode.hasSpsr then s.spsrOf s.bankMode else s.cpsr
      (rd ≠ 15#4 → t.x rd = v) ∧ t.pc = (if rd = 15#4 then v &&& 0xFFFFFFFC#32 else s.pc + 4#32) ∧
        RegsKept s t [phys s.bankMode rd] ∧ t.cpsr = s.cpsr ∧ MemKept s t ∧ SystemKept s t ∧ t.outs = s.outs ∧
        t.delay = s.extraCycles (rd = 15#4) s.params.cycles.status

/-- R195, R196, R306: MSR to CPSR: the bytes the mask names, never T, the control byte not in User mode under `blocked`;
the mode resolved when the control byte is written, an invalid number a fault under STRICT. -/
def Obligations.StatusWrite : Prop :=
  ∀ (i : Instr) (mask : BitVec 4) (v : Word) (s : State), msrCpsrOf i s = some (mask, v) → s.thumb = false →
    let new := msrWord s.cpsr v mask (s.writesControl mask) false
    let bad := s.writesControl mask = true ∧ Mode.ofBits (Psr.mode new) = none
    (bad → s.params.strict = true → exec i s = .fault (.invalidMode (Psr.mode new))) ∧
      (¬ bad ∨ s.params.strict = false →
        ∃ t, exec i s = .next t ∧ t.cpsr = new ∧
          t.bankMode = (if s.writesControl mask then (Mode.ofBits (Psr.mode new)).getD s.bankMode else s.bankMode) ∧
          t.pc = s.pc + 4#32 ∧ RegsKept s t [] ∧ MemKept s t ∧ SpsrsKept s t ∧ StepperKept s t ∧ t.outs = s.outs ∧
          t.delay = s.extraCycles false s.params.cycles.status)

/-- R195, R197: MSR to SPSR: the mode's own SPSR takes the bytes the mask names, T and M among them; nothing in USR and SYS. -/
def Obligations.SavedStatusWrite : Prop :=
  ∀ (i : Instr) (mask : BitVec 4) (v : Word) (s : State), msrSpsrOf i s = some (mask, v) → s.thumb = false →
    ∃ t, exec i s = .next t ∧
      (s.bankMode.hasSpsr = true → t.spsrOf s.bankMode = msrWord (s.spsrOf s.bankMode) v mask (mask.getLsbD 0) true) ∧
      (∀ m : Mode, m.hasSpsr = true → m ≠ s.bankMode → t.spsrOf m = s.spsrOf m) ∧
      t.pc = s.pc + 4#32 ∧ RegsKept s t [] ∧ t.cpsr = s.cpsr ∧ t.bankMode = s.bankMode ∧ MemKept s t ∧ StepperKept s t ∧
      t.outs = s.outs ∧ t.delay = s.extraCycles false s.params.cycles.status

/-- R203, R204, R288, R301: coprocessor and UNDEFINED encodings: nothing but the advance of `pc`, or the fault, by UNDEFINED_POLICY.
That a fault ends the run is the model's form of `dead` (notes/assumptions/8.md). -/
def Obligations.UnimplementedEncodings : Prop :=
  ∀ (i : Instr) (s : State), isUnimplemented i = true → s.thumb = i.isThumb →
    (s.params.undefinedPolicy = .fault → exec i s = .fault .unimplemented) ∧
      (s.params.undefinedPolicy = .nop →
        ∃ t, exec i s = .next t ∧ t.pc = s.pc + (if s.thumb then 2#32 else 4#32) ∧ RegsKept s t [] ∧ t.cpsr = s.cpsr ∧
          MemKept s t ∧ SystemKept s t ∧ t.outs = s.outs ∧ t.delay = s.extraCycles false 0)

/-! ## Thumb -/

/-- R210 with R211 to R234, R236, R237, R239: the flag-setting Thumb operations: result, flags and frame. -/
def Obligations.ThumbOperations : Prop :=
  ∀ (i : Instr) (op : AluOp) (rd : Reg) (a : Word) (b : Shifted) (s : State), thumbAluOf i s = some (op, rd, a, b) →
    i.wf = true → s.thumb = true →
      ∃ t, exec i s = .next t ∧
        let o := op.eval a b.value b.carry (Psr.c s.cpsr) (Psr.v s.cpsr)
        (op.writesRd = true → t.x rd = o.r) ∧ FlagsAre s t (o.r.getLsbD 31) (o.r == 0#32) o.c o.v ∧
          t.pc = s.pc + 2#32 ∧ RegsKept s t (if op.writesRd then [phys s.bankMode rd] else []) ∧ MemKept s t ∧
          SystemKept s t ∧ t.outs = s.outs ∧ t.delay = s.extraCycles false (thumbShiftCycles i s)

/-- R235: Thumb MUL. -/
def Obligations.ThumbMultiply : Prop :=
  ∀ (rs rd : Reg) (s : State), (Instr.tMul rs rd).wf = true → s.thumb = true →
    ∃ t, exec (.tMul rs rd) s = .next t ∧
      let r := BitVec.ofNat 32 ((s.x rd).toNat * (s.x rs).toNat)
      t.x rd = r ∧ FlagsAre s t (r.getLsbD 31) (r == 0#32) false false ∧ t.pc = s.pc + 2#32 ∧
        RegsKept s t [phys s.bankMode rd] ∧ MemKept s t ∧ SystemKept s t ∧ t.outs = s.outs ∧
        t.delay = s.extraCycles false (multiplierCycles (s.x rd) true + s.params.cycles.mul)

/-- R238, R240, R242 to R245: the Thumb instructions that write a register and no flag; r15 is a branch within Thumb state. -/
def Obligations.ThumbMoves : Prop :=
  ∀ (i : Instr) (rd : Reg) (v : Word) (s : State), thumbMoveOf i s = some (rd, v) → i.wf = true → s.thumb = true →
    ∃ t, exec i s = .next t ∧ (rd ≠ 15#4 → t.x rd = v) ∧
      t.pc = (if rd = 15#4 then v &&& 0xFFFFFFFE#32 else s.pc + 2#32) ∧ t.cpsr = s.cpsr ∧
      RegsKept s t [phys s.bankMode rd] ∧ MemKept s t ∧ SystemKept s t ∧ t.outs = s.outs ∧
      t.delay = s.extraCycles (rd = 15#4) (if rd = 15#4 then s.params.cycles.pcWrite else 0)

/-- R250, R253, R254, R256 to R258, R260, R262, R264, R266, R45: the Thumb single loads. -/
def Obligations.ThumbLoads : Prop :=
  ∀ (i : Instr) (k : LoadKind) (rd : Reg) (a : Word) (s : State), thumbLoadOf i s = some (k, rd, a) → i.wf = true →
    s.thumb = true →
      (k.refuses s a = true → exec i s = .refused .misalignedHalfword) ∧
        (k.refuses s a = false →
          ∃ t, exec i s = .next t ∧ t.x rd = k.value s.mem a ∧ t.pc = s.pc + 2#32 ∧ RegsKept s t [phys s.bankMode rd] ∧
            t.cpsr = s.cpsr ∧ MemKeptBut s t 1 ∧ CoreKept s t ∧ Calls s t [k.call s.mem a] ∧
            t.delay = s.extraCycles false s.params.cycles.load)

/-- R251, R252, R255, R259, R261, R263, R265: the Thumb single stores. -/
def Obligations.ThumbStores : Prop :=
  ∀ (i : Instr) (z : Size) (rd : Reg) (a : Word) (s : State), thumbStoreOf i s = some (z, rd, a) → i.wf = true →
    s.thumb = true → s.mem.wf →
      ∃ t, exec i s = .next t ∧
        ((∀ k < z.bytes, s.Untouched 1 (z.storeAddress a + BitVec.ofNat 32 k)) →
          z.readBack t.mem (z.storeAddress a) = z.part (s.x rd)) ∧
        MemKeptOutside s t (z.storeAddress a) z.bytes 1 ∧ t.pc = s.pc + 2#32 ∧ RegsKept s t [] ∧ t.cpsr = s.cpsr ∧
        CoreKept s t ∧ Calls s t [.write z (z.storeAddress a) (z.part (s.x rd))] ∧
        t.delay = s.extraCycles false s.params.cycles.store

/-! ## The stepper and the interrupt dispatcher -/

/-- R310, R311, R304: the interrupt check in its four cases, and the source selected, the lowest-numbered one enabled and pending. -/
def Obligations.InterruptCheck : Prop :=
  ∀ s : State,
    let waiting := ∃ i < s.params.irqLines, s.irqEnable.testBit i = true ∧ s.irqPending.testBit i = true
    let t := s.interruptCheck
    (Psr.i s.cpsr = true → t = s ∧ s.irqTaken = false) ∧ (¬ waiting → t = s ∧ s.irqTaken = false) ∧
      (Psr.i s.cpsr = false → waiting → s.irqMaster = false →
        t = { s with halted := false, stopped := false, outs := s.outs ++ [.wake] } ∧ s.irqTaken = false) ∧
      (Psr.i s.cpsr = false → waiting → s.irqMaster = true →
        s.irqTaken = true ∧ t.spsrIrq = s.cpsr ∧ t.cpsr = (s.cpsr &&& 0xFFFFFF40#32) ||| 0x92#32 ∧ t.bankMode = .irq ∧
          t.reg .r14irq = s.pc + 4#32 ∧ t.pc = 0x00000018#32 ∧ RegsKept s t [.r14irq] ∧ t.spsrFiq = s.spsrFiq ∧
          t.spsrSvc = s.spsrSvc ∧ t.spsrAbt = s.spsrAbt ∧ t.spsrUnd = s.spsrUnd ∧ t.mem = s.mem ∧ t.halted = false ∧
          t.stopped = false ∧ t.outs = s.outs ++ [.wake] ∧ t.delay = s.delay ∧ t.pending = s.pending ∧
          t.opcode = s.opcode ∧ t.dead = s.dead ∧ t.irqEnable = s.irqEnable ∧ t.irqPending = s.irqPending ∧
          t.irqMaster = s.irqMaster ∧ t.reactions = s.reactions ∧ t.params = s.params) ∧
      ∀ i, s.irqSource = some i ↔ i < s.params.irqLines ∧ s.irqEnable.testBit i = true ∧ s.irqPending.testBit i = true ∧
        ∀ j < i, ¬ (s.irqEnable.testBit j = true ∧ s.irqPending.testBit j = true)

/-- R80, R314: a dead core does nothing, a delay counts down and does nothing else, and a Decoding cycle checks for an interrupt and
then fetches unless halted or stopped; so does the end of a Dispatching cycle, which samples the inputs the instruction's own port
calls left: an instruction that halts the core, with no wake-up, stages nothing in its own cycle. -/
def Obligations.CycleOrder : Prop :=
  ∀ s : State,
    (s.dead = true → step s = .next { s with outs := [] }) ∧
      (s.dead = false → 0 < s.delay → step s = .next { s with outs := [], delay := s.delay - 1 }) ∧
      (s.dead = false → s.delay = 0 → s.pending = none →
        let u := { s with outs := [] }.interruptCheck
        (u.halted = true ∨ u.stopped = true → step s = .next u) ∧
          (u.halted = false → u.stopped = false → step s = .next u.fetchDecode)) ∧
      (s.interruptCheck.halted = true ∨ s.interruptCheck.stopped = true → s.stageNext = s.interruptCheck) ∧
      (s.interruptCheck.halted = false → s.interruptCheck.stopped = false → s.stageNext = s.interruptCheck.fetchDecode) ∧
      ∀ (b : Bucket) (i : Instr) (u : State), s.dead = false → s.delay = 0 → s.pending = some b → b.instr s.opcode = some i →
        exec i { s with outs := [], pending := none } = .next u → u.halted = true ∨ u.stopped = true →
          Psr.i u.cpsr = true ∨ u.irqWaiting = false → step s = .next u ∧ u.pending = none

/-- R83, R84, R46, R205: fetch and decode, one port call (`State.called`), which the environment answers inside the cycle. A failed
ARM condition, NV among them, skips the word and stages nothing. -/
def Obligations.FetchAndDecode : Prop :=
  ∀ s : State, s.pending = none →
    (s.thumb = true →
      let h := s.mem.read16 (s.pc &&& 0xFFFFFFFE#32)
      let call := OutEvent.read .half (s.pc &&& 0xFFFFFFFE#32) (h.setWidth 32)
      s.fetchDecode = { s.called call with opcode := h.setWidth 32, pending := some (.thumb (h.extractLsb' 6 10)) }) ∧
    (s.thumb = false →
      let w := s.mem.read32 (s.pc &&& 0xFFFFFFFC#32)
      let call := OutEvent.read .word (s.pc &&& 0xFFFFFFFC#32) w
      (conditionPassed (Cond.ofBits (w.extractLsb' 28 4)) s.cpsr = true →
        s.fetchDecode = { s.called call with opcode := w, pending := some (.arm (w.extractLsb' 20 8 ++ w.extractLsb' 4 4)) }) ∧
      (conditionPassed (Cond.ofBits (w.extractLsb' 28 4)) s.cpsr = false →
        let t := s.fetchDecode
        t.pc = s.pc + 4#32 ∧ t.opcode = w ∧ t.pending = none ∧ RegsKept s t [] ∧ t.cpsr = s.cpsr ∧ SpsrsKept s t ∧
          t.bankMode = s.bankMode ∧ t.delay = s.delay ∧ t.dead = s.dead ∧ t.params = s.params ∧ Calls s t [call]))

/-- R80 step C3, R89: a step runs the instruction the bytes at `pc` decode to, then checks for an interrupt and stages the
next; and a Decoding cycle with no interrupt waiting stages it, so that the step after runs it. -/
def Obligations.StepRunsDecodedInstruction : Prop :=
  (∀ (s : State) (b : Bucket) (i : Instr) (rest : List Byte), s.dead = false → s.delay = 0 → s.pending = some b →
    s.stagedAgrees → s.stagedFresh →
    let a := if s.thumb then alignHalf s.pc else alignWord s.pc
    decode s.thumb [s.mem.read8 a, s.mem.read8 (a + 1#32), s.mem.read8 (a + 2#32), s.mem.read8 (a + 3#32)] = .ok (i, rest) →
      step s = match exec i { s with outs := [], pending := none } with
        | .next t => .next t.stageNext
        | .fault f => .fault f
        | .refused r => .refused r) ∧
    ∀ (s : State) (i : Instr) (rest : List Byte), s.dead = false → s.delay = 0 → s.pending = none → s.halted = false →
      s.stopped = false → (Psr.i s.cpsr = true ∨ s.irqWaiting = false) →
      let a := if s.thumb then alignHalf s.pc else alignWord s.pc
      decode s.thumb [s.mem.read8 a, s.mem.read8 (a + 1#32), s.mem.read8 (a + 2#32), s.mem.read8 (a + 3#32)] = .ok (i, rest) →
      (s.thumb = false → conditionPassed (condOf (s.mem.read32 a)) s.cpsr = true) →
        ∃ t, step s = .next t ∧ t.pc = s.pc ∧ t.regs = s.regs ∧ t.cpsr = s.cpsr ∧ t.environment = s.environment.react ∧
          step t = match exec i { t with outs := [], pending := none } with
            | .next u => .next u.stageNext
            | .fault f => .fault f
            | .refused r => .refused r

/-! ## Decoding -/

/-- Words written out from the spec's encodings (the examples of files 42 to 49) decode to the instructions they stand for. -/
def Obligations.DecodeExamples : Prop :=
  decodeArm 0xE20100FF#32 = some (.andImm .al false 1#4 0#4 0#4 0xFF#8) ∧
    decodeArm 0xE0510002#32 = some (.subShiftImm .al true 1#4 0#4 0#5 .lsl 2#4) ∧
    decodeArm 0xE0203291#32 = some (.mla .al false 0#4 3#4 2#4 1#4) ∧
    decodeArm 0xE5910004#32 = some (.ldrImmPre .al true false 1#4 0#4 4#12) ∧
    decodeArm 0xE1D100B2#32 = some (.ldrhImm .al true true false 1#4 0#4 0#4 2#4) ∧
    decodeArm 0xE92D4003#32 = some (.stm .al true false false true 13#4 0x4003#16) ∧
    decodeArm 0xEB000006#32 = some (.bl .al 6#24) ∧ decodeArm 0xE12FFF1E#32 = some (.bx .al 14#4) ∧
    decodeArm 0xE129F000#32 = some (.msrCpsrReg .al 9#4 0#4) ∧ decodeArm 0xEF000012#32 = some (.swi .al 0x12#24) ∧
    decodeArm 0xEE070F90#32 = some (.mcr .al 0#3 7#4 0#4 15#4 4#3 0#4) ∧
    decodeThumb 0x0088#16 = some (.tLslImm 2#5 1#4 0#4) ∧ decodeThumb 0x46F7#16 = some (.tMovHi 14#4 15#4) ∧
    decodeThumb 0x5888#16 = some (.tLdrReg 2#4 1#4 0#4) ∧ decodeThumb 0xB501#16 = some (.tPush true 1#8) ∧
    decodeThumb 0xD1FA#16 = some (.tBne 0xFA#8) ∧ decodeThumb 0xFF7E#16 = some (.tBlLow 0x77E#11)

/-- R61, R64, R66, R68: every bucket of both decode tables holds exactly one row, so every word and halfword decodes. -/
def Obligations.EveryBucketHasOneRow : Prop :=
  (∀ idx : BitVec 12, (armRows.filter fun r => armSpread idx &&& r.mask == r.pattern).length = 1) ∧
    (∀ idx : BitVec 10, (thumbRows.filter fun r => thumbSpread idx &&& r.mask == r.pattern).length = 1) ∧
    (∀ w : Word, (decodeArm w).isSome = true) ∧ ∀ h : Half, (decodeThumb h).isSome = true

/-- R60, R62 to R64, R67, R68: decoding the bytes of an encoded well-formed instruction gives it back, with every operand,
and leaves the bytes after it. -/
def Obligations.DecodeEncodeAgree : Prop :=
  ∀ (i : Instr) (rest : List Byte), i.wf = true → decode i.isThumb ((encode i).bytes ++ rest) = .ok (i, rest)

/-- R60, R67: what is decoded is well-formed and belongs to the set the T bit selects. -/
def Obligations.DecodedIsWellFormed : Prop :=
  ∀ (thumb : Bool) (bytes rest : List Byte) (i : Instr), decode thumb bytes = .ok (i, rest) →
    i.wf = true ∧ i.isThumb = thumb ∧ bytes.length = rest.length + if thumb then 2 else 4

/-! ## Memory -/

/-- R40, R42: little-endian access: a written word or halfword reads back, byte k of a word stands at its address plus k,
every other byte is as before, and a byte written into a word changes that byte of it. -/
def Obligations.MemoryAccess : Prop :=
  ∀ (m : Memory) (a : Word), m.wf →
    (∀ w : Word, (m.write32 a w).wf ∧ (m.write32 a w).read32 a = w ∧
      (∀ k, k < 4 → (m.write32 a w).read8 (a + BitVec.ofNat 32 k) = w.extractLsb' (8 * k) 8) ∧
      ∀ b : Word, 4 ≤ (b - a).toNat → (m.write32 a w).read8 b = m.read8 b) ∧
    (∀ h : Half, (m.write16 a h).wf ∧ (m.write16 a h).read16 a = h ∧
      ∀ b : Word, 2 ≤ (b - a).toNat → (m.write16 a h).read8 b = m.read8 b) ∧
    (∀ b : Byte, (m.write8 (a + 1#32) b).wf ∧ (m.write8 (a + 1#32) b).read32 a =
      (m.read32 a &&& 0xFFFF00FF#32) ||| (b.setWidth 32 <<< 8))

/-! ## What every step keeps -/

/-- Memory stays canonical, over every step and every action of the host and the environment. -/
def Obligations.MemoryStaysCanonical : Prop :=
  (∀ s t : State, s.mem.wf → step s = .next t → t.mem.wf) ∧
    ∀ (a : HostAction) (s t : State), s.mem.wf → hostStep a s = some t → t.mem.wf

/-- R16, R90: `pc` stays a multiple of 4 in ARM state and of 2 in Thumb state. -/
def Obligations.PcStaysAligned : Prop :=
  ∀ s t : State, s.pcAligned → step s = .next t → t.pcAligned

/-- R17, R26: under STRICT the bank map stays that of the mode the CPSR names, which stays one of the seven, over every step and every
action of the host and the environment, reset among them. -/
def Obligations.BankFollowsMode : Prop :=
  (∀ s t : State, s.bankAgrees → step s = .next t → t.bankAgrees) ∧
    ∀ (a : HostAction) (s t : State), s.bankAgrees → hostStep a s = some t → t.bankAgrees

/-- R23, R53: what is staged stays the decoding of `opcode` in the state in force, with its condition passed; and `opcode` stays the
word at `pc`, a store of the core to it included, while the environment writes no memory inside a port call. -/
def Obligations.StagedStaysCurrent : Prop :=
  ∀ s t : State, s.stagedAgrees → step s = .next t →
    t.stagedAgrees ∧ (s.stagedFresh → s.quiet → t.stagedFresh ∧ t.quiet)

/-- R28, R41, R89, R333: no instruction writes what is staged, `opcode`, `dead` or a parameter, and memory and the inputs change by its
port calls alone: by what a call stores and by what the environment does inside it. A call with no reaction moves its value and nothing
else; one with a reaction uses it up, takes the inputs it gives, and leaves in memory what it writes last. That `reactions` stands
for the environment's choice is the model's form (notes/assumptions/5.md). -/
def Obligations.InstructionsKeepStepper : Prop :=
  (∀ (i : Instr) (s t : State), exec i s = .next t → StagingKept s t ∧ ∃ cs, Calls s t cs) ∧
    (∀ (s : State) (z : Size) (a v : Word), s.reactions = [] →
      s.called (.read z a v) = { s with outs := s.outs ++ [.read z a v] } ∧
        s.called (.write z a v) = { s with mem := s.mem.store z a v, outs := s.outs ++ [.write z a v] }) ∧
    ∀ (s : State) (z : Size) (a v : Word) (c : OutEvent) (r : Reaction) (rest : List Reaction), s.reactions = r :: rest →
      c = .read z a v ∨ c = .write z a v →
        let m := if c = .read z a v then s.mem else s.mem.store z a v
        let t := s.called c
        t.outs = s.outs ++ [c] ∧ t.regs = s.regs ∧ t.cpsr = s.cpsr ∧ CoreKept s t ∧ t.delay = s.delay ∧ t.reactions = rest ∧
          (∀ v : Inputs, r.inputs = some v → t.irqEnable = v.irqEnable ∧ t.irqPending = v.irqPending ∧
            t.irqMaster = v.irqMaster ∧ t.halted = v.halted ∧ t.stopped = v.stopped) ∧
          (r.inputs = none → t.irqEnable = s.irqEnable ∧ t.irqPending = s.irqPending ∧ t.irqMaster = s.irqMaster ∧
            t.halted = s.halted ∧ t.stopped = s.stopped) ∧
          (∀ b : Word, (∀ w ∈ r.writes, w.1 ≠ b) → t.mem.read8 b = m.read8 b) ∧
          (∀ (before after : List (Word × Byte)) (b : Word) (x : Byte), s.mem.wf → r.writes = before ++ (b, x) :: after →
            (∀ w ∈ after, w.1 ≠ b) → t.mem.read8 b = x)

/-- R305, R306: under `blocked`, no instruction but SWI executed in User mode changes the mode, I or F, an SPSR, or a
register the User bank does not hold. -/
def Obligations.UserModeIsConfined : Prop :=
  ∀ (i : Instr) (s t : State), Psr.mode s.cpsr = 0x10#5 → s.bankMode = .usr → s.params.msrUserControl = .blocked →
    isSwi i = false → exec i s = .next t →
      Psr.mode t.cpsr = 0x10#5 ∧ t.bankMode = .usr ∧ Psr.i t.cpsr = Psr.i s.cpsr ∧ t.cpsr.getLsbD 6 = s.cpsr.getLsbD 6 ∧
        SpsrsKept s t ∧ ∀ p : PReg, p ∉ allRegs.map (phys .usr) → t.reg p = s.reg p

/-- R18, R90: only BX, exception entry and the SPSR-to-CPSR copies change the instruction set. -/
def Obligations.OnlyTheseChangeSet : Prop :=
  ∀ (i : Instr) (s t : State), i.wf = true → exec i s = .next t → t.thumb ≠ s.thumb → mayChangeSet i s

/-- R199, R283, R320: SWI and then `MOVS pc, lr` resumes at the instruction after the SWI with the CPSR, the mode and
every register but r14_svc as they were. -/
def Obligations.SwiReturnsExactly : Prop :=
  ∀ (i : Instr) (c : Cond) (s : State), isSwi i = true → s.thumb = i.isThumb → s.pcAligned →
    Mode.ofBits (Psr.mode s.cpsr) = some s.bankMode →
      ∃ t u, exec i s = .next t ∧ exec (.movShiftImm c true 0#4 15#4 0#5 .lsl 14#4) t = .next u ∧ u.cpsr = s.cpsr ∧
        u.bankMode = s.bankMode ∧ u.pc = s.pc + (if s.thumb then 2#32 else 4#32) ∧ RegsKept s u [.r14svc] ∧ MemKept s u ∧
        u.spsrFiq = s.spsrFiq ∧ u.spsrAbt = s.spsrAbt ∧ u.spsrIrq = s.spsrIrq ∧ u.spsrUnd = s.spsrUnd

/-- R311, R320: IRQ entry and then `SUBS pc, lr, #4` resumes at the interrupted instruction with the CPSR, the mode and
every register but r14_irq as they were. -/
def Obligations.IrqReturnsExactly : Prop :=
  ∀ (c : Cond) (s : State), s.irqTaken = true → s.pcAligned → Mode.ofBits (Psr.mode s.cpsr) = some s.bankMode →
    ∃ u, exec (.subImm c true 14#4 15#4 0#4 4#8) s.interruptCheck = .next u ∧ u.cpsr = s.cpsr ∧ u.bankMode = s.bankMode ∧
      u.pc = s.pc ∧ RegsKept s u [.r14irq] ∧ MemKept s u ∧ u.spsrFiq = s.spsrFiq ∧ u.spsrSvc = s.spsrSvc ∧
      u.spsrAbt = s.spsrAbt ∧ u.spsrUnd = s.spsrUnd
end

