-- ==== Sys2Proof/Laws/Memory.lean ====
section
/-! SUPPORT. The laws of memory: a read after a write, the canonical form kept by every write, and a canonical memory
told apart by its bytes alone (spec/20_memory.md R40 to R43). -/

namespace Sys2Proof.Machine

/-! ## One cell -/

theorem Memory.read_write_of_ne (m : Memory) {a a' : Nat} (b : Byte) (h : a' ≠ a) :
    Memory.read (Memory.write m a b) a' = Memory.read m a' := by
  induction m with
  | nil => unfold Memory.write; split <;> simp [Memory.read, h.symm]
  | cons c rest ih =>
    obtain ⟨k, v⟩ := c
    unfold Memory.write
    split
    · split <;> simp [Memory.read, h.symm]
    · split
      · rename_i hk; subst hk
        split <;> simp [Memory.read, h.symm]
      · simp [Memory.read, ih]

theorem Memory.read_of_lt (m : Memory) {a : Nat} (h : ∀ c ∈ m, a < c.1) : Memory.read m a = Config.unlistedByte := by
  induction m with
  | nil => rfl
  | cons c rest ih =>
    have hc := h c (by simp)
    have hne : c.1 ≠ a := by omega
    simp only [Memory.read, hne, if_false]
    exact ih fun d hd => h d (by simp [hd])

theorem Memory.wf_tail {c : Host.Cell} {m : Memory} (h : Memory.wf (c :: m)) : Memory.wf m :=
  ⟨(List.pairwise_cons.mp h.1).2, fun d hd => h.2 d (by simp [hd])⟩

theorem Memory.read_write_self (m : Memory) (a : Nat) (b : Byte) (h : Memory.wf m) :
    Memory.read (Memory.write m a b) a = b := by
  induction m with
  | nil => unfold Memory.write; split <;> simp_all [Memory.read]
  | cons c rest ih =>
    have hlt : ∀ d ∈ rest, c.1 < d.1 := (List.pairwise_cons.mp h.1).1
    unfold Memory.write
    split
    · rename_i hak
      split
      · rename_i hb
        rw [hb]
        refine Memory.read_of_lt _ fun d hd => ?_
        rcases List.mem_cons.mp hd with rfl | hd
        · exact hak
        · have := hlt d hd; omega
      · simp [Memory.read]
    · split
      · rename_i hak; subst hak
        split
        · rename_i hb; rw [hb]; exact Memory.read_of_lt _ hlt
        · simp [Memory.read]
      · rename_i hne
        have hne' : c.1 ≠ a := fun e => hne e.symm
        simp only [Memory.read, hne', if_false]
        exact ih (Memory.wf_tail h)

theorem Memory.mem_write {m : Memory} {a : Nat} {b : Byte} {c : Host.Cell} (h : c ∈ Memory.write m a b) :
    c ∈ m ∨ (c = (a, b) ∧ b ≠ Config.unlistedByte) := by
  induction m with
  | nil =>
    unfold Memory.write at h
    split at h
    · simp at h
    · right; simp_all
  | cons d rest ih =>
    unfold Memory.write at h
    split at h
    · split at h
      · left; exact h
      · rcases List.mem_cons.mp h with rfl | h
        · right; simp_all
        · left; exact h
    · split at h
      · split at h
        · left; simp [h]
        · rcases List.mem_cons.mp h with rfl | h
          · right; simp_all
          · left; simp [h]
      · rcases List.mem_cons.mp h with rfl | h
        · left; simp
        · rcases ih h with h | h
          · left; simp [h]
          · right; exact h

theorem Memory.wf_write {m : Memory} (h : Memory.wf m) {a : Nat} (ha : a < 2 ^ 32) (b : Byte) :
    Memory.wf (Memory.write m a b) := by
  refine ⟨?_, fun c hc => ?_⟩
  · induction m with
    | nil => unfold Memory.write; split <;> simp
    | cons c rest ih =>
      have hp := List.pairwise_cons.mp h.1
      unfold Memory.write
      split
      · rename_i hak
        split
        · exact h.1
        · refine List.pairwise_cons.mpr ⟨fun d hd => ?_, h.1⟩
          rcases List.mem_cons.mp hd with rfl | hd
          · exact hak
          · have := hp.1 d hd; show a < d.1; omega
      · split
        · rename_i hak
          split
          · exact hp.2
          · exact List.pairwise_cons.mpr ⟨fun d hd => by have := hp.1 d hd; show a < d.1; omega, hp.2⟩
        · refine List.pairwise_cons.mpr ⟨fun d hd => ?_, ih (Memory.wf_tail h)⟩
          rcases Memory.mem_write hd with hd | ⟨rfl, -⟩
          · exact hp.1 d hd
          · show c.1 < a; omega
  · rcases Memory.mem_write hc with hc | ⟨rfl, hb⟩
    · exact h.2 c hc
    · exact ⟨ha, hb⟩

/-! ## Bytes, halfwords and words -/

theorem Memory.wf_write8 {m : Memory} (h : m.wf) (a : Word) (b : Byte) : (m.write8 a b).wf :=
  Memory.wf_write h a.isLt b

theorem Memory.wf_write16 {m : Memory} (h : m.wf) (a : Word) (v : Half) : (m.write16 a v).wf :=
  Memory.wf_write8 (Memory.wf_write8 h _ _) _ _

theorem Memory.wf_write32 {m : Memory} (h : m.wf) (a v : Word) : (m.write32 a v).wf :=
  Memory.wf_write8 (Memory.wf_write8 (Memory.wf_write8 (Memory.wf_write8 h _ _) _ _) _ _) _ _

theorem Memory.read8_write8_of_ne (m : Memory) {a a' : Word} (b : Byte) (h : a' ≠ a) :
    (m.write8 a b).read8 a' = m.read8 a' :=
  Memory.read_write_of_ne m b fun e => h (BitVec.eq_of_toNat_eq e)

theorem Memory.read8_write8_self {m : Memory} (h : m.wf) (a : Word) (b : Byte) : (m.write8 a b).read8 a = b :=
  Memory.read_write_self m a.toNat b h

theorem Memory.read8_write8 {m : Memory} (h : m.wf) (a a' : Word) (b : Byte) :
    (m.write8 a b).read8 a' = if a' = a then b else m.read8 a' := by
  by_cases he : a' = a
  · subst he; simp [Memory.read8_write8_self h]
  · simp [he, Memory.read8_write8_of_ne]

theorem Memory.read8_write16_of_ne (m : Memory) {a a' : Word} (v : Half) (h0 : a' ≠ a) (h1 : a' ≠ a + 1#32) :
    (m.write16 a v).read8 a' = m.read8 a' := by
  simp [Memory.write16, Memory.read8_write8_of_ne, h0, h1]

theorem Memory.read8_write32_of_ne (m : Memory) {a a' : Word} (v : Word) (h0 : a' ≠ a) (h1 : a' ≠ a + 1#32)
    (h2 : a' ≠ a + 2#32) (h3 : a' ≠ a + 3#32) : (m.write32 a v).read8 a' = m.read8 a' := by
  simp [Memory.write32, Memory.read8_write8_of_ne, h0, h1, h2, h3]

theorem Memory.read8_write32 {m : Memory} (h : m.wf) (a a' v : Word) :
    (m.write32 a v).read8 a' =
      if a' = a + 3#32 then v.extractLsb' 24 8 else if a' = a + 2#32 then v.extractLsb' 16 8
      else if a' = a + 1#32 then v.extractLsb' 8 8 else if a' = a then v.extractLsb' 0 8 else m.read8 a' := by
  have h1 := Memory.wf_write8 h a (v.extractLsb' 0 8)
  have h2 := Memory.wf_write8 h1 (a + 1#32) (v.extractLsb' 8 8)
  have h3 := Memory.wf_write8 h2 (a + 2#32) (v.extractLsb' 16 8)
  rw [Memory.write32, Memory.read8_write8 h3, Memory.read8_write8 h2, Memory.read8_write8 h1, Memory.read8_write8 h]

theorem wordOfBytes_extract (v : Word) :
    wordOfBytes (v.extractLsb' 0 8) (v.extractLsb' 8 8) (v.extractLsb' 16 8) (v.extractLsb' 24 8) = v := by
  apply BitVec.eq_of_getLsbD_eq
  intro i hi
  simp only [wordOfBytes, BitVec.getLsbD_append, BitVec.getLsbD_extractLsb']
  rcases Nat.lt_or_ge i 8 with h | h
  · simp [h]
  · rcases Nat.lt_or_ge i 16 with h' | h'
    · have : ¬ i < 8 := by omega
      have h2 : i - 8 < 8 := by omega
      simp [this, h2]; congr 1; omega
    · rcases Nat.lt_or_ge i 24 with h'' | h''
      · have e1 : ¬ i < 8 := by omega
        have e2 : ¬ i - 8 < 8 := by omega
        have e3 : i - 8 - 8 < 8 := by omega
        simp [e1, e2, e3]; congr 1; omega
      · have e1 : ¬ i < 8 := by omega
        have e2 : ¬ i - 8 < 8 := by omega
        have e3 : ¬ i - 8 - 8 < 8 := by omega
        have e4 : i - 8 - 8 - 8 < 8 := by omega
        simp [e1, e2, e3, e4]; congr 1; omega

theorem halfOfBytes_extract (v : Half) : halfOfBytes (v.extractLsb' 0 8) (v.extractLsb' 8 8) = v := by
  apply BitVec.eq_of_getLsbD_eq
  intro i hi
  simp only [halfOfBytes, BitVec.getLsbD_append, BitVec.getLsbD_extractLsb']
  rcases Nat.lt_or_ge i 8 with h | h
  · simp [h]
  · have e1 : ¬ i < 8 := by omega
    have e2 : i - 8 < 8 := by omega
    simp [e1, e2]; congr 1; omega

theorem Memory.read32_write32_self {m : Memory} (h : m.wf) (a v : Word) : (m.write32 a v).read32 a = v := by
  have hne : ∀ {x y : Word}, x ≠ y → (a + x = a + y) = False := fun hxy => by
    simp only [eq_iff_iff, iff_false]; intro e; exact hxy (by simpa using e)
  have h0 : ∀ {y : Word}, y ≠ 0#32 → (a = a + y) = False := fun hy => by
    simp only [eq_iff_iff, iff_false]; intro e; apply hy; simpa using e.symm
  have h0' : ∀ {y : Word}, y ≠ 0#32 → (a + y = a) = False := fun hy => by
    simp only [eq_iff_iff, iff_false]; intro e; apply hy; simpa using e
  have e01 : (a = a + 1#32) = False := h0 (by decide)
  have e02 : (a = a + 2#32) = False := h0 (by decide)
  have e03 : (a = a + 3#32) = False := h0 (by decide)
  have e12 : (a + 1#32 = a + 2#32) = False := hne (by decide)
  have e13 : (a + 1#32 = a + 3#32) = False := hne (by decide)
  have e23 : (a + 2#32 = a + 3#32) = False := hne (by decide)
  simp only [Memory.read32, Memory.read8_write32 h, e01, e02, e03, e12, e13, e23, if_false, if_true]
  exact wordOfBytes_extract v

theorem Memory.read16_write16_self {m : Memory} (h : m.wf) (a : Word) (v : Half) : (m.write16 a v).read16 a = v := by
  have h1 := Memory.wf_write8 h a (v.extractLsb' 0 8)
  have e01 : (a = a + 1#32) = False := by
    simp only [eq_iff_iff, iff_false]; intro e
    have : (1#32 : Word) = 0#32 := by simpa using e.symm
    exact absurd this (by decide)
  simp only [Memory.read16, Memory.write16, Memory.read8_write8 h1, Memory.read8_write8 h, e01, if_false, if_true]
  exact halfOfBytes_extract v

/-! ## Canonical memories -/

theorem Memory.read_mem {m : Memory} (h : m.wf) {c : Host.Cell} (hc : c ∈ m) : Memory.read m c.1 = c.2 := by
  induction m with
  | nil => simp at hc
  | cons d rest ih =>
    rcases List.mem_cons.mp hc with rfl | hc
    · simp [Memory.read]
    · have := (List.pairwise_cons.mp h.1).1 c hc
      have hne : d.1 ≠ c.1 := by omega
      simp only [Memory.read, hne, if_false]
      exact ih (Memory.wf_tail h) hc

theorem Memory.mem_of_read_ne (m : Memory) {a : Nat} (h : Memory.read m a ≠ Config.unlistedByte) :
    (a, Memory.read m a) ∈ m := by
  induction m with
  | nil => exact absurd rfl h
  | cons d rest ih =>
    obtain ⟨k, v⟩ := d
    by_cases hk : k = a
    · simp [Memory.read, hk]
    · simp only [Memory.read, hk, if_false] at h ⊢
      exact List.mem_cons_of_mem _ (ih h)

theorem Memory.mem_iff_read {m : Memory} (h : m.wf) (c : Host.Cell) :
    c ∈ m ↔ Memory.read m c.1 = c.2 ∧ c.2 ≠ Config.unlistedByte := by
  refine ⟨fun hc => ⟨Memory.read_mem h hc, (h.2 c hc).2⟩, fun ⟨hr, hne⟩ => ?_⟩
  have := Memory.mem_of_read_ne m (a := c.1) (by rwa [hr])
  rwa [hr] at this

theorem Memory.nodup {m : Memory} (h : m.wf) : m.Nodup :=
  h.1.imp fun {c d} hlt e => by rw [e] at hlt; exact Nat.lt_irrefl _ hlt

theorem Memory.eq_of_read {m m' : Memory} (h : m.wf) (h' : m'.wf)
    (hr : ∀ a, Memory.read m a = Memory.read m' a) : m = m' := by
  have hp : m.Perm m' := (List.perm_ext_iff_of_nodup (Memory.nodup h) (Memory.nodup h')).2 fun c => by
    rw [Memory.mem_iff_read h, Memory.mem_iff_read h', hr]
  exact hp.eq_of_pairwise (fun c d _ _ hcd hdc => absurd hcd (by omega)) h.1 h'.1

theorem Memory.read_of_ge {m : Memory} (h : m.wf) {a : Nat} (ha : 2 ^ 32 ≤ a) : Memory.read m a = Config.unlistedByte := by
  by_contra hne
  have := (h.2 _ (Memory.mem_of_read_ne m hne)).1
  simp only at this
  omega

end Sys2Proof.Machine
end

