-- ==== Sys2Proof/Laws/Psr.lean ====
section
/-! SUPPORT. The fields of a status word after each update of one (spec/10_state.md R18), and the mode numbers (R13). -/

namespace Sys2Proof.Machine

/-- Two words are equal when their 32 bits are. -/
theorem word_ext {a b : Word} (h : ∀ i, i < 32 → a.getLsbD i = b.getLsbD i) : a = b :=
  BitVec.eq_of_getLsbD_eq fun i hi => h i hi

theorem getLsbD_setBit (p : Word) (k j : Nat) (b : Bool) (hk : k < 32) :
    (setBit p k b).getLsbD j = if j = k then b else p.getLsbD j := by
  have h1 : (1#32 <<< k).getLsbD j = decide (j = k) := by
    rw [BitVec.getLsbD_shiftLeft, BitVec.getLsbD_one]
    by_cases hjk : j = k
    · subst hjk; simp [hk]
    · by_cases hlt : j < k
      · simp [hlt, hjk]
      · have h0 : j - k ≠ 0 := by omega
        simp [h0, hjk]
  unfold setBit
  cases b
  · simp only [Bool.false_eq_true, if_false, BitVec.getLsbD_and, BitVec.getLsbD_not, h1]
    by_cases hjk : j = k
    · simp [hjk]
    · by_cases hj : j < 32
      · simp [hjk, hj]
      · rw [BitVec.getLsbD_of_ge _ _ (by omega)]; simp [hjk]
  · simp only [if_true, BitVec.getLsbD_or, h1]
    by_cases hjk : j = k <;> simp [hjk]

theorem getLsbD_mode (p : Word) (k : Nat) : (Psr.mode p).getLsbD k = (decide (k < 5) && p.getLsbD k) := by
  simp [Psr.mode]

/-- Two words with the same bits 4:0 have the same mode field. -/
theorem mode_congr {p q : Word} (h : ∀ k, k < 5 → p.getLsbD k = q.getLsbD k) : Psr.mode p = Psr.mode q := by
  apply BitVec.eq_of_getLsbD_eq
  intro i hi
  simp [Psr.mode, hi, h i hi]

theorem getLsbD_withFlags (p : Word) (n z c v : Bool) (j : Nat) :
    (Psr.withFlags p n z c v).getLsbD j =
      if j = 28 then v else if j = 29 then c else if j = 30 then z else if j = 31 then n else p.getLsbD j := by
  simp only [Psr.withFlags, getLsbD_setBit _ _ _ _ (show (28 : Nat) < 32 by decide),
    getLsbD_setBit _ _ _ _ (show (29 : Nat) < 32 by decide), getLsbD_setBit _ _ _ _ (show (30 : Nat) < 32 by decide),
    getLsbD_setBit _ _ _ _ (show (31 : Nat) < 32 by decide)]

@[simp] theorem Psr.n_withFlags (p : Word) (n z c v : Bool) : Psr.n (Psr.withFlags p n z c v) = n := by
  rw [Psr.n, getLsbD_withFlags]; rfl
@[simp] theorem Psr.z_withFlags (p : Word) (n z c v : Bool) : Psr.z (Psr.withFlags p n z c v) = z := by
  rw [Psr.z, getLsbD_withFlags]; rfl
@[simp] theorem Psr.c_withFlags (p : Word) (n z c v : Bool) : Psr.c (Psr.withFlags p n z c v) = c := by
  rw [Psr.c, getLsbD_withFlags]; rfl
@[simp] theorem Psr.v_withFlags (p : Word) (n z c v : Bool) : Psr.v (Psr.withFlags p n z c v) = v := by
  rw [Psr.v, getLsbD_withFlags]; rfl
@[simp] theorem Psr.t_withFlags (p : Word) (n z c v : Bool) : Psr.t (Psr.withFlags p n z c v) = Psr.t p := by
  rw [Psr.t, getLsbD_withFlags]; rfl
@[simp] theorem Psr.i_withFlags (p : Word) (n z c v : Bool) : Psr.i (Psr.withFlags p n z c v) = Psr.i p := by
  rw [Psr.i, getLsbD_withFlags]; rfl
@[simp] theorem Psr.mode_withFlags (p : Word) (n z c v : Bool) : Psr.mode (Psr.withFlags p n z c v) = Psr.mode p := by
  apply mode_congr
  intro k hk
  rw [getLsbD_withFlags]
  repeat rw [if_neg (by omega)]

@[simp] theorem withFlags_and (p : Word) (n z c v : Bool) :
    Psr.withFlags p n z c v &&& 0x0FFFFFFF#32 = p &&& 0x0FFFFFFF#32 := by
  apply word_ext
  intro i hi
  rw [BitVec.getLsbD_and, BitVec.getLsbD_and, getLsbD_withFlags]
  by_cases h : i < 28
  · repeat rw [if_neg (by omega)]
  · have : (0x0FFFFFFF#32).getLsbD i = false := by
      have : i = 28 ∨ i = 29 ∨ i = 30 ∨ i = 31 := by omega
      rcases this with rfl | rfl | rfl | rfl <;> decide
    simp [this]

@[simp] theorem Psr.t_withT (p : Word) (b : Bool) : Psr.t (Psr.withT p b) = b := by
  rw [Psr.t, Psr.withT, getLsbD_setBit _ _ _ _ (by decide)]; rfl
@[simp] theorem Psr.i_withT (p : Word) (b : Bool) : Psr.i (Psr.withT p b) = Psr.i p := by
  rw [Psr.i, Psr.withT, getLsbD_setBit _ _ _ _ (by decide)]; rfl
@[simp] theorem Psr.mode_withT (p : Word) (b : Bool) : Psr.mode (Psr.withT p b) = Psr.mode p := by
  apply mode_congr
  intro k hk
  rw [Psr.withT, getLsbD_setBit _ _ _ _ (by decide), if_neg (by omega)]
theorem withT_and (p : Word) (b : Bool) : Psr.withT p b &&& 0xFFFFFFDF#32 = p &&& 0xFFFFFFDF#32 := by
  apply word_ext
  intro i hi
  rw [BitVec.getLsbD_and, BitVec.getLsbD_and, Psr.withT, getLsbD_setBit _ _ _ _ (by decide)]
  by_cases h : i = 5
  · subst h; simp
  · rw [if_neg h]
@[simp] theorem Psr.t_withI (p : Word) (b : Bool) : Psr.t (Psr.withI p b) = Psr.t p := by
  rw [Psr.t, Psr.withI, getLsbD_setBit _ _ _ _ (by decide)]; rfl
@[simp] theorem Psr.i_withI (p : Word) (b : Bool) : Psr.i (Psr.withI p b) = b := by
  rw [Psr.i, Psr.withI, getLsbD_setBit _ _ _ _ (by decide)]; rfl
@[simp] theorem Psr.mode_withI (p : Word) (b : Bool) : Psr.mode (Psr.withI p b) = Psr.mode p := by
  apply mode_congr
  intro k hk
  rw [Psr.withI, getLsbD_setBit _ _ _ _ (by decide), if_neg (by omega)]
@[simp] theorem Psr.mode_withMode (p : Word) (m : BitVec 5) : Psr.mode (Psr.withMode p m) = m := by
  apply BitVec.eq_of_getLsbD_eq
  intro i hi
  have h0 : (0xFFFFFFE0#32).getLsbD i = false := by
    have : i = 0 ∨ i = 1 ∨ i = 2 ∨ i = 3 ∨ i = 4 := by omega
    rcases this with rfl | rfl | rfl | rfl | rfl <;> decide
  rw [getLsbD_mode, Psr.withMode, BitVec.getLsbD_or, BitVec.getLsbD_and, h0, BitVec.getLsbD_setWidth]
  have hi' : i < 32 := by omega
  simp [hi, hi']

@[simp] theorem Mode.ofBits_bits (m : Mode) : Mode.ofBits m.bits = some m := by cases m <;> rfl

theorem Mode.ofBits_eq_some {b : BitVec 5} {m : Mode} : Mode.ofBits b = some m ↔ b = m.bits := by
  constructor
  · revert b m; decide
  · rintro rfl; simp

/-- The status word exception entry leaves: M, I and T written, the rest as it was (R304). -/
theorem entry_cpsr (p : Word) (m : Mode) :
    Psr.withT (Psr.withI (Psr.withMode p m.bits) true) false = (p &&& 0xFFFFFF40#32) ||| (m.bits.setWidth 32 ||| 0x80#32) := by
  apply word_ext
  intro i hi
  have e : (Psr.withT (Psr.withI (Psr.withMode p m.bits) true) false).getLsbD i =
      if i = 5 then false else if i = 7 then true else (Psr.withMode p m.bits).getLsbD i := by
    rw [Psr.withT, getLsbD_setBit _ _ _ _ (by decide), Psr.withI, getLsbD_setBit _ _ _ _ (by decide)]
  rw [e]
  simp only [Psr.withMode, BitVec.getLsbD_or, BitVec.getLsbD_and]
  interval_cases i <;> cases m <;> simp [Mode.bits]

end Sys2Proof.Machine
end

