-- ==== Sys2Proof/Laws/State.lean ====
section
/-! SUPPORT. What each update of the state leaves in each field, true by definition or by one case split, so that no proof
unfolds a record update. Read and write of registers are at the head. -/

namespace Sys2Proof.Machine

theorem PReg.index_injective {p q : PReg} (h : p.index = q.index) : p = q := by
  cases p <;> cases q <;> first | rfl | exact absurd h (by decide)

@[simp] theorem State.reg_setReg_self (s : State) (p : PReg) (v : Word) : (s.setReg p v).reg p = v := by
  exact Vector.getElem_set_self p.index.isLt

theorem State.reg_setReg_of_ne (s : State) {p q : PReg} (v : Word) (h : q ≠ p) : (s.setReg p v).reg q = s.reg q := by
  have hne : p.index.val ≠ q.index.val := fun e => h (PReg.index_injective (Fin.ext e)).symm
  exact Vector.getElem_set_ne p.index.isLt q.index.isLt hne

theorem State.reg_setReg (s : State) (p q : PReg) (v : Word) :
    (s.setReg p v).reg q = if q = p then v else s.reg q := by
  by_cases h : q = p
  · subst h; simp
  · simp [h, State.reg_setReg_of_ne]

@[simp] theorem State.cpsr_setReg (s : State) (p : PReg) (v : Word) : (s.setReg p v).cpsr = s.cpsr := rfl
@[simp] theorem State.spsrFiq_setReg (s : State) (p : PReg) (v : Word) : (s.setReg p v).spsrFiq = s.spsrFiq := rfl
@[simp] theorem State.spsrSvc_setReg (s : State) (p : PReg) (v : Word) : (s.setReg p v).spsrSvc = s.spsrSvc := rfl
@[simp] theorem State.spsrAbt_setReg (s : State) (p : PReg) (v : Word) : (s.setReg p v).spsrAbt = s.spsrAbt := rfl
@[simp] theorem State.spsrIrq_setReg (s : State) (p : PReg) (v : Word) : (s.setReg p v).spsrIrq = s.spsrIrq := rfl
@[simp] theorem State.spsrUnd_setReg (s : State) (p : PReg) (v : Word) : (s.setReg p v).spsrUnd = s.spsrUnd := rfl
@[simp] theorem State.bankMode_setReg (s : State) (p : PReg) (v : Word) : (s.setReg p v).bankMode = s.bankMode := rfl
@[simp] theorem State.pending_setReg (s : State) (p : PReg) (v : Word) : (s.setReg p v).pending = s.pending := rfl
@[simp] theorem State.opcode_setReg (s : State) (p : PReg) (v : Word) : (s.setReg p v).opcode = s.opcode := rfl
@[simp] theorem State.delay_setReg (s : State) (p : PReg) (v : Word) : (s.setReg p v).delay = s.delay := rfl
@[simp] theorem State.dead_setReg (s : State) (p : PReg) (v : Word) : (s.setReg p v).dead = s.dead := rfl
@[simp] theorem State.mem_setReg (s : State) (p : PReg) (v : Word) : (s.setReg p v).mem = s.mem := rfl
@[simp] theorem State.irqEnable_setReg (s : State) (p : PReg) (v : Word) : (s.setReg p v).irqEnable = s.irqEnable := rfl
@[simp] theorem State.irqPending_setReg (s : State) (p : PReg) (v : Word) : (s.setReg p v).irqPending = s.irqPending := rfl
@[simp] theorem State.irqMaster_setReg (s : State) (p : PReg) (v : Word) : (s.setReg p v).irqMaster = s.irqMaster := rfl
@[simp] theorem State.halted_setReg (s : State) (p : PReg) (v : Word) : (s.setReg p v).halted = s.halted := rfl
@[simp] theorem State.stopped_setReg (s : State) (p : PReg) (v : Word) : (s.setReg p v).stopped = s.stopped := rfl
@[simp] theorem State.reactions_setReg (s : State) (p : PReg) (v : Word) : (s.setReg p v).reactions = s.reactions := rfl
@[simp] theorem State.environment_setReg (s : State) (p : PReg) (v : Word) : (s.setReg p v).environment = s.environment := rfl
@[simp] theorem State.outs_setReg (s : State) (p : PReg) (v : Word) : (s.setReg p v).outs = s.outs := rfl
@[simp] theorem State.params_setReg (s : State) (p : PReg) (v : Word) : (s.setReg p v).params = s.params := rfl
@[simp] theorem State.thumb_setReg (s : State) (p : PReg) (v : Word) : (s.setReg p v).thumb = s.thumb := rfl

@[simp] theorem State.cpsr_setCpsr (s : State) (v : Word) : (s.setCpsr v).cpsr = v := rfl
@[simp] theorem State.spsrFiq_setCpsr (s : State) (v : Word) : (s.setCpsr v).spsrFiq = s.spsrFiq := rfl
@[simp] theorem State.spsrSvc_setCpsr (s : State) (v : Word) : (s.setCpsr v).spsrSvc = s.spsrSvc := rfl
@[simp] theorem State.spsrAbt_setCpsr (s : State) (v : Word) : (s.setCpsr v).spsrAbt = s.spsrAbt := rfl
@[simp] theorem State.spsrIrq_setCpsr (s : State) (v : Word) : (s.setCpsr v).spsrIrq = s.spsrIrq := rfl
@[simp] theorem State.spsrUnd_setCpsr (s : State) (v : Word) : (s.setCpsr v).spsrUnd = s.spsrUnd := rfl
@[simp] theorem State.bankMode_setCpsr (s : State) (v : Word) : (s.setCpsr v).bankMode = s.bankMode := rfl
@[simp] theorem State.pending_setCpsr (s : State) (v : Word) : (s.setCpsr v).pending = s.pending := rfl
@[simp] theorem State.opcode_setCpsr (s : State) (v : Word) : (s.setCpsr v).opcode = s.opcode := rfl
@[simp] theorem State.delay_setCpsr (s : State) (v : Word) : (s.setCpsr v).delay = s.delay := rfl
@[simp] theorem State.dead_setCpsr (s : State) (v : Word) : (s.setCpsr v).dead = s.dead := rfl
@[simp] theorem State.mem_setCpsr (s : State) (v : Word) : (s.setCpsr v).mem = s.mem := rfl
@[simp] theorem State.irqEnable_setCpsr (s : State) (v : Word) : (s.setCpsr v).irqEnable = s.irqEnable := rfl
@[simp] theorem State.irqPending_setCpsr (s : State) (v : Word) : (s.setCpsr v).irqPending = s.irqPending := rfl
@[simp] theorem State.irqMaster_setCpsr (s : State) (v : Word) : (s.setCpsr v).irqMaster = s.irqMaster := rfl
@[simp] theorem State.halted_setCpsr (s : State) (v : Word) : (s.setCpsr v).halted = s.halted := rfl
@[simp] theorem State.stopped_setCpsr (s : State) (v : Word) : (s.setCpsr v).stopped = s.stopped := rfl
@[simp] theorem State.reactions_setCpsr (s : State) (v : Word) : (s.setCpsr v).reactions = s.reactions := rfl
@[simp] theorem State.environment_setCpsr (s : State) (v : Word) : (s.setCpsr v).environment = s.environment := rfl
@[simp] theorem State.outs_setCpsr (s : State) (v : Word) : (s.setCpsr v).outs = s.outs := rfl
@[simp] theorem State.params_setCpsr (s : State) (v : Word) : (s.setCpsr v).params = s.params := rfl
@[simp] theorem State.reg_setCpsr (s : State) (v : Word) (q : PReg) : (s.setCpsr v).reg q = s.reg q := rfl
@[simp] theorem State.pc_setCpsr (s : State) (v : Word) : (s.setCpsr v).pc = s.pc := rfl
@[simp] theorem State.xusr_setCpsr (s : State) (v : Word) (i : Reg) : (s.setCpsr v).xusr i = s.xusr i := rfl
@[simp] theorem State.x_setCpsr (s : State) (v : Word) (i : Reg) : (s.setCpsr v).x i = s.x i := rfl

@[simp] theorem State.cpsr_setBankMode (s : State) (m : Mode) : (s.setBankMode m).cpsr = s.cpsr := rfl
@[simp] theorem State.spsrFiq_setBankMode (s : State) (m : Mode) : (s.setBankMode m).spsrFiq = s.spsrFiq := rfl
@[simp] theorem State.spsrSvc_setBankMode (s : State) (m : Mode) : (s.setBankMode m).spsrSvc = s.spsrSvc := rfl
@[simp] theorem State.spsrAbt_setBankMode (s : State) (m : Mode) : (s.setBankMode m).spsrAbt = s.spsrAbt := rfl
@[simp] theorem State.spsrIrq_setBankMode (s : State) (m : Mode) : (s.setBankMode m).spsrIrq = s.spsrIrq := rfl
@[simp] theorem State.spsrUnd_setBankMode (s : State) (m : Mode) : (s.setBankMode m).spsrUnd = s.spsrUnd := rfl
@[simp] theorem State.bankMode_setBankMode (s : State) (m : Mode) : (s.setBankMode m).bankMode = m := rfl
@[simp] theorem State.pending_setBankMode (s : State) (m : Mode) : (s.setBankMode m).pending = s.pending := rfl
@[simp] theorem State.opcode_setBankMode (s : State) (m : Mode) : (s.setBankMode m).opcode = s.opcode := rfl
@[simp] theorem State.delay_setBankMode (s : State) (m : Mode) : (s.setBankMode m).delay = s.delay := rfl
@[simp] theorem State.dead_setBankMode (s : State) (m : Mode) : (s.setBankMode m).dead = s.dead := rfl
@[simp] theorem State.mem_setBankMode (s : State) (m : Mode) : (s.setBankMode m).mem = s.mem := rfl
@[simp] theorem State.irqEnable_setBankMode (s : State) (m : Mode) : (s.setBankMode m).irqEnable = s.irqEnable := rfl
@[simp] theorem State.irqPending_setBankMode (s : State) (m : Mode) : (s.setBankMode m).irqPending = s.irqPending := rfl
@[simp] theorem State.irqMaster_setBankMode (s : State) (m : Mode) : (s.setBankMode m).irqMaster = s.irqMaster := rfl
@[simp] theorem State.halted_setBankMode (s : State) (m : Mode) : (s.setBankMode m).halted = s.halted := rfl
@[simp] theorem State.stopped_setBankMode (s : State) (m : Mode) : (s.setBankMode m).stopped = s.stopped := rfl
@[simp] theorem State.reactions_setBankMode (s : State) (m : Mode) : (s.setBankMode m).reactions = s.reactions := rfl
@[simp] theorem State.environment_setBankMode (s : State) (m : Mode) : (s.setBankMode m).environment = s.environment := rfl
@[simp] theorem State.outs_setBankMode (s : State) (m : Mode) : (s.setBankMode m).outs = s.outs := rfl
@[simp] theorem State.params_setBankMode (s : State) (m : Mode) : (s.setBankMode m).params = s.params := rfl
@[simp] theorem State.reg_setBankMode (s : State) (m : Mode) (q : PReg) : (s.setBankMode m).reg q = s.reg q := rfl
@[simp] theorem State.pc_setBankMode (s : State) (m : Mode) : (s.setBankMode m).pc = s.pc := rfl
@[simp] theorem State.xusr_setBankMode (s : State) (m : Mode) (i : Reg) : (s.setBankMode m).xusr i = s.xusr i := rfl
@[simp] theorem State.thumb_setBankMode (s : State) (m : Mode) : (s.setBankMode m).thumb = s.thumb := rfl

@[simp] theorem State.cpsr_setDelay (s : State) (d : Nat) : (s.setDelay d).cpsr = s.cpsr := rfl
@[simp] theorem State.spsrFiq_setDelay (s : State) (d : Nat) : (s.setDelay d).spsrFiq = s.spsrFiq := rfl
@[simp] theorem State.spsrSvc_setDelay (s : State) (d : Nat) : (s.setDelay d).spsrSvc = s.spsrSvc := rfl
@[simp] theorem State.spsrAbt_setDelay (s : State) (d : Nat) : (s.setDelay d).spsrAbt = s.spsrAbt := rfl
@[simp] theorem State.spsrIrq_setDelay (s : State) (d : Nat) : (s.setDelay d).spsrIrq = s.spsrIrq := rfl
@[simp] theorem State.spsrUnd_setDelay (s : State) (d : Nat) : (s.setDelay d).spsrUnd = s.spsrUnd := rfl
@[simp] theorem State.bankMode_setDelay (s : State) (d : Nat) : (s.setDelay d).bankMode = s.bankMode := rfl
@[simp] theorem State.pending_setDelay (s : State) (d : Nat) : (s.setDelay d).pending = s.pending := rfl
@[simp] theorem State.opcode_setDelay (s : State) (d : Nat) : (s.setDelay d).opcode = s.opcode := rfl
@[simp] theorem State.delay_setDelay (s : State) (d : Nat) : (s.setDelay d).delay = d := rfl
@[simp] theorem State.dead_setDelay (s : State) (d : Nat) : (s.setDelay d).dead = s.dead := rfl
@[simp] theorem State.mem_setDelay (s : State) (d : Nat) : (s.setDelay d).mem = s.mem := rfl
@[simp] theorem State.irqEnable_setDelay (s : State) (d : Nat) : (s.setDelay d).irqEnable = s.irqEnable := rfl
@[simp] theorem State.irqPending_setDelay (s : State) (d : Nat) : (s.setDelay d).irqPending = s.irqPending := rfl
@[simp] theorem State.irqMaster_setDelay (s : State) (d : Nat) : (s.setDelay d).irqMaster = s.irqMaster := rfl
@[simp] theorem State.halted_setDelay (s : State) (d : Nat) : (s.setDelay d).halted = s.halted := rfl
@[simp] theorem State.stopped_setDelay (s : State) (d : Nat) : (s.setDelay d).stopped = s.stopped := rfl
@[simp] theorem State.reactions_setDelay (s : State) (d : Nat) : (s.setDelay d).reactions = s.reactions := rfl
@[simp] theorem State.environment_setDelay (s : State) (d : Nat) : (s.setDelay d).environment = s.environment := rfl
@[simp] theorem State.outs_setDelay (s : State) (d : Nat) : (s.setDelay d).outs = s.outs := rfl
@[simp] theorem State.params_setDelay (s : State) (d : Nat) : (s.setDelay d).params = s.params := rfl
@[simp] theorem State.reg_setDelay (s : State) (d : Nat) (q : PReg) : (s.setDelay d).reg q = s.reg q := rfl
@[simp] theorem State.pc_setDelay (s : State) (d : Nat) : (s.setDelay d).pc = s.pc := rfl
@[simp] theorem State.xusr_setDelay (s : State) (d : Nat) (i : Reg) : (s.setDelay d).xusr i = s.xusr i := rfl
@[simp] theorem State.x_setDelay (s : State) (d : Nat) (i : Reg) : (s.setDelay d).x i = s.x i := rfl
@[simp] theorem State.thumb_setDelay (s : State) (d : Nat) : (s.setDelay d).thumb = s.thumb := rfl

@[simp] theorem State.cpsr_setMem (s : State) (m : Memory) : (s.setMem m).cpsr = s.cpsr := rfl
@[simp] theorem State.spsrFiq_setMem (s : State) (m : Memory) : (s.setMem m).spsrFiq = s.spsrFiq := rfl
@[simp] theorem State.spsrSvc_setMem (s : State) (m : Memory) : (s.setMem m).spsrSvc = s.spsrSvc := rfl
@[simp] theorem State.spsrAbt_setMem (s : State) (m : Memory) : (s.setMem m).spsrAbt = s.spsrAbt := rfl
@[simp] theorem State.spsrIrq_setMem (s : State) (m : Memory) : (s.setMem m).spsrIrq = s.spsrIrq := rfl
@[simp] theorem State.spsrUnd_setMem (s : State) (m : Memory) : (s.setMem m).spsrUnd = s.spsrUnd := rfl
@[simp] theorem State.bankMode_setMem (s : State) (m : Memory) : (s.setMem m).bankMode = s.bankMode := rfl
@[simp] theorem State.pending_setMem (s : State) (m : Memory) : (s.setMem m).pending = s.pending := rfl
@[simp] theorem State.opcode_setMem (s : State) (m : Memory) : (s.setMem m).opcode = s.opcode := rfl
@[simp] theorem State.delay_setMem (s : State) (m : Memory) : (s.setMem m).delay = s.delay := rfl
@[simp] theorem State.dead_setMem (s : State) (m : Memory) : (s.setMem m).dead = s.dead := rfl
@[simp] theorem State.mem_setMem (s : State) (m : Memory) : (s.setMem m).mem = m := rfl
@[simp] theorem State.irqEnable_setMem (s : State) (m : Memory) : (s.setMem m).irqEnable = s.irqEnable := rfl
@[simp] theorem State.irqPending_setMem (s : State) (m : Memory) : (s.setMem m).irqPending = s.irqPending := rfl
@[simp] theorem State.irqMaster_setMem (s : State) (m : Memory) : (s.setMem m).irqMaster = s.irqMaster := rfl
@[simp] theorem State.halted_setMem (s : State) (m : Memory) : (s.setMem m).halted = s.halted := rfl
@[simp] theorem State.stopped_setMem (s : State) (m : Memory) : (s.setMem m).stopped = s.stopped := rfl
@[simp] theorem State.reactions_setMem (s : State) (m : Memory) : (s.setMem m).reactions = s.reactions := rfl
@[simp] theorem State.outs_setMem (s : State) (m : Memory) : (s.setMem m).outs = s.outs := rfl
@[simp] theorem State.params_setMem (s : State) (m : Memory) : (s.setMem m).params = s.params := rfl
@[simp] theorem State.reg_setMem (s : State) (m : Memory) (q : PReg) : (s.setMem m).reg q = s.reg q := rfl
@[simp] theorem State.pc_setMem (s : State) (m : Memory) : (s.setMem m).pc = s.pc := rfl
@[simp] theorem State.xusr_setMem (s : State) (m : Memory) (i : Reg) : (s.setMem m).xusr i = s.xusr i := rfl
@[simp] theorem State.x_setMem (s : State) (m : Memory) (i : Reg) : (s.setMem m).x i = s.x i := rfl
@[simp] theorem State.thumb_setMem (s : State) (m : Memory) : (s.setMem m).thumb = s.thumb := rfl

@[simp] theorem State.cpsr_setPending (s : State) (b : Option Bucket) : (s.setPending b).cpsr = s.cpsr := rfl
@[simp] theorem State.spsrFiq_setPending (s : State) (b : Option Bucket) : (s.setPending b).spsrFiq = s.spsrFiq := rfl
@[simp] theorem State.spsrSvc_setPending (s : State) (b : Option Bucket) : (s.setPending b).spsrSvc = s.spsrSvc := rfl
@[simp] theorem State.spsrAbt_setPending (s : State) (b : Option Bucket) : (s.setPending b).spsrAbt = s.spsrAbt := rfl
@[simp] theorem State.spsrIrq_setPending (s : State) (b : Option Bucket) : (s.setPending b).spsrIrq = s.spsrIrq := rfl
@[simp] theorem State.spsrUnd_setPending (s : State) (b : Option Bucket) : (s.setPending b).spsrUnd = s.spsrUnd := rfl
@[simp] theorem State.bankMode_setPending (s : State) (b : Option Bucket) : (s.setPending b).bankMode = s.bankMode := rfl
@[simp] theorem State.pending_setPending (s : State) (b : Option Bucket) : (s.setPending b).pending = b := rfl
@[simp] theorem State.opcode_setPending (s : State) (b : Option Bucket) : (s.setPending b).opcode = s.opcode := rfl
@[simp] theorem State.delay_setPending (s : State) (b : Option Bucket) : (s.setPending b).delay = s.delay := rfl
@[simp] theorem State.dead_setPending (s : State) (b : Option Bucket) : (s.setPending b).dead = s.dead := rfl
@[simp] theorem State.mem_setPending (s : State) (b : Option Bucket) : (s.setPending b).mem = s.mem := rfl
@[simp] theorem State.irqEnable_setPending (s : State) (b : Option Bucket) : (s.setPending b).irqEnable = s.irqEnable := rfl
@[simp] theorem State.irqPending_setPending (s : State) (b : Option Bucket) : (s.setPending b).irqPending = s.irqPending := rfl
@[simp] theorem State.irqMaster_setPending (s : State) (b : Option Bucket) : (s.setPending b).irqMaster = s.irqMaster := rfl
@[simp] theorem State.halted_setPending (s : State) (b : Option Bucket) : (s.setPending b).halted = s.halted := rfl
@[simp] theorem State.stopped_setPending (s : State) (b : Option Bucket) : (s.setPending b).stopped = s.stopped := rfl
@[simp] theorem State.reactions_setPending (s : State) (b : Option Bucket) : (s.setPending b).reactions = s.reactions := rfl
@[simp] theorem State.environment_setPending (s : State) (b : Option Bucket) : (s.setPending b).environment = s.environment := rfl
@[simp] theorem State.outs_setPending (s : State) (b : Option Bucket) : (s.setPending b).outs = s.outs := rfl
@[simp] theorem State.params_setPending (s : State) (b : Option Bucket) : (s.setPending b).params = s.params := rfl
@[simp] theorem State.reg_setPending (s : State) (b : Option Bucket) (q : PReg) : (s.setPending b).reg q = s.reg q := rfl
@[simp] theorem State.pc_setPending (s : State) (b : Option Bucket) : (s.setPending b).pc = s.pc := rfl
@[simp] theorem State.xusr_setPending (s : State) (b : Option Bucket) (i : Reg) : (s.setPending b).xusr i = s.xusr i := rfl
@[simp] theorem State.x_setPending (s : State) (b : Option Bucket) (i : Reg) : (s.setPending b).x i = s.x i := rfl
@[simp] theorem State.thumb_setPending (s : State) (b : Option Bucket) : (s.setPending b).thumb = s.thumb := rfl

@[simp] theorem State.cpsr_setOpcode (s : State) (w : Word) : (s.setOpcode w).cpsr = s.cpsr := rfl
@[simp] theorem State.spsrFiq_setOpcode (s : State) (w : Word) : (s.setOpcode w).spsrFiq = s.spsrFiq := rfl
@[simp] theorem State.spsrSvc_setOpcode (s : State) (w : Word) : (s.setOpcode w).spsrSvc = s.spsrSvc := rfl
@[simp] theorem State.spsrAbt_setOpcode (s : State) (w : Word) : (s.setOpcode w).spsrAbt = s.spsrAbt := rfl
@[simp] theorem State.spsrIrq_setOpcode (s : State) (w : Word) : (s.setOpcode w).spsrIrq = s.spsrIrq := rfl
@[simp] theorem State.spsrUnd_setOpcode (s : State) (w : Word) : (s.setOpcode w).spsrUnd = s.spsrUnd := rfl
@[simp] theorem State.bankMode_setOpcode (s : State) (w : Word) : (s.setOpcode w).bankMode = s.bankMode := rfl
@[simp] theorem State.pending_setOpcode (s : State) (w : Word) : (s.setOpcode w).pending = s.pending := rfl
@[simp] theorem State.opcode_setOpcode (s : State) (w : Word) : (s.setOpcode w).opcode = w := rfl
@[simp] theorem State.delay_setOpcode (s : State) (w : Word) : (s.setOpcode w).delay = s.delay := rfl
@[simp] theorem State.dead_setOpcode (s : State) (w : Word) : (s.setOpcode w).dead = s.dead := rfl
@[simp] theorem State.mem_setOpcode (s : State) (w : Word) : (s.setOpcode w).mem = s.mem := rfl
@[simp] theorem State.irqEnable_setOpcode (s : State) (w : Word) : (s.setOpcode w).irqEnable = s.irqEnable := rfl
@[simp] theorem State.irqPending_setOpcode (s : State) (w : Word) : (s.setOpcode w).irqPending = s.irqPending := rfl
@[simp] theorem State.irqMaster_setOpcode (s : State) (w : Word) : (s.setOpcode w).irqMaster = s.irqMaster := rfl
@[simp] theorem State.halted_setOpcode (s : State) (w : Word) : (s.setOpcode w).halted = s.halted := rfl
@[simp] theorem State.stopped_setOpcode (s : State) (w : Word) : (s.setOpcode w).stopped = s.stopped := rfl
@[simp] theorem State.reactions_setOpcode (s : State) (w : Word) : (s.setOpcode w).reactions = s.reactions := rfl
@[simp] theorem State.environment_setOpcode (s : State) (w : Word) : (s.setOpcode w).environment = s.environment := rfl
@[simp] theorem State.outs_setOpcode (s : State) (w : Word) : (s.setOpcode w).outs = s.outs := rfl
@[simp] theorem State.params_setOpcode (s : State) (w : Word) : (s.setOpcode w).params = s.params := rfl
@[simp] theorem State.reg_setOpcode (s : State) (w : Word) (q : PReg) : (s.setOpcode w).reg q = s.reg q := rfl
@[simp] theorem State.pc_setOpcode (s : State) (w : Word) : (s.setOpcode w).pc = s.pc := rfl
@[simp] theorem State.xusr_setOpcode (s : State) (w : Word) (i : Reg) : (s.setOpcode w).xusr i = s.xusr i := rfl
@[simp] theorem State.x_setOpcode (s : State) (w : Word) (i : Reg) : (s.setOpcode w).x i = s.x i := rfl
@[simp] theorem State.thumb_setOpcode (s : State) (w : Word) : (s.setOpcode w).thumb = s.thumb := rfl

@[simp] theorem State.cpsr_emit (s : State) (e : OutEvent) : (s.emit e).cpsr = s.cpsr := rfl
@[simp] theorem State.spsrFiq_emit (s : State) (e : OutEvent) : (s.emit e).spsrFiq = s.spsrFiq := rfl
@[simp] theorem State.spsrSvc_emit (s : State) (e : OutEvent) : (s.emit e).spsrSvc = s.spsrSvc := rfl
@[simp] theorem State.spsrAbt_emit (s : State) (e : OutEvent) : (s.emit e).spsrAbt = s.spsrAbt := rfl
@[simp] theorem State.spsrIrq_emit (s : State) (e : OutEvent) : (s.emit e).spsrIrq = s.spsrIrq := rfl
@[simp] theorem State.spsrUnd_emit (s : State) (e : OutEvent) : (s.emit e).spsrUnd = s.spsrUnd := rfl
@[simp] theorem State.bankMode_emit (s : State) (e : OutEvent) : (s.emit e).bankMode = s.bankMode := rfl
@[simp] theorem State.pending_emit (s : State) (e : OutEvent) : (s.emit e).pending = s.pending := rfl
@[simp] theorem State.opcode_emit (s : State) (e : OutEvent) : (s.emit e).opcode = s.opcode := rfl
@[simp] theorem State.delay_emit (s : State) (e : OutEvent) : (s.emit e).delay = s.delay := rfl
@[simp] theorem State.dead_emit (s : State) (e : OutEvent) : (s.emit e).dead = s.dead := rfl
@[simp] theorem State.mem_emit (s : State) (e : OutEvent) : (s.emit e).mem = s.mem := rfl
@[simp] theorem State.irqEnable_emit (s : State) (e : OutEvent) : (s.emit e).irqEnable = s.irqEnable := rfl
@[simp] theorem State.irqPending_emit (s : State) (e : OutEvent) : (s.emit e).irqPending = s.irqPending := rfl
@[simp] theorem State.irqMaster_emit (s : State) (e : OutEvent) : (s.emit e).irqMaster = s.irqMaster := rfl
@[simp] theorem State.halted_emit (s : State) (e : OutEvent) : (s.emit e).halted = s.halted := rfl
@[simp] theorem State.stopped_emit (s : State) (e : OutEvent) : (s.emit e).stopped = s.stopped := rfl
@[simp] theorem State.reactions_emit (s : State) (e : OutEvent) : (s.emit e).reactions = s.reactions := rfl
@[simp] theorem State.environment_emit (s : State) (e : OutEvent) : (s.emit e).environment = s.environment := rfl
@[simp] theorem State.outs_emit (s : State) (e : OutEvent) : (s.emit e).outs = s.outs ++ [e] := rfl
@[simp] theorem State.params_emit (s : State) (e : OutEvent) : (s.emit e).params = s.params := rfl
@[simp] theorem State.reg_emit (s : State) (e : OutEvent) (q : PReg) : (s.emit e).reg q = s.reg q := rfl
@[simp] theorem State.pc_emit (s : State) (e : OutEvent) : (s.emit e).pc = s.pc := rfl
@[simp] theorem State.xusr_emit (s : State) (e : OutEvent) (i : Reg) : (s.emit e).xusr i = s.xusr i := rfl
@[simp] theorem State.x_emit (s : State) (e : OutEvent) (i : Reg) : (s.emit e).x i = s.x i := rfl
@[simp] theorem State.thumb_emit (s : State) (e : OutEvent) : (s.emit e).thumb = s.thumb := rfl

@[simp] theorem State.cpsr_clearOuts (s : State) : (s.clearOuts).cpsr = s.cpsr := rfl
@[simp] theorem State.spsrFiq_clearOuts (s : State) : (s.clearOuts).spsrFiq = s.spsrFiq := rfl
@[simp] theorem State.spsrSvc_clearOuts (s : State) : (s.clearOuts).spsrSvc = s.spsrSvc := rfl
@[simp] theorem State.spsrAbt_clearOuts (s : State) : (s.clearOuts).spsrAbt = s.spsrAbt := rfl
@[simp] theorem State.spsrIrq_clearOuts (s : State) : (s.clearOuts).spsrIrq = s.spsrIrq := rfl
@[simp] theorem State.spsrUnd_clearOuts (s : State) : (s.clearOuts).spsrUnd = s.spsrUnd := rfl
@[simp] theorem State.bankMode_clearOuts (s : State) : (s.clearOuts).bankMode = s.bankMode := rfl
@[simp] theorem State.pending_clearOuts (s : State) : (s.clearOuts).pending = s.pending := rfl
@[simp] theorem State.opcode_clearOuts (s : State) : (s.clearOuts).opcode = s.opcode := rfl
@[simp] theorem State.delay_clearOuts (s : State) : (s.clearOuts).delay = s.delay := rfl
@[simp] theorem State.dead_clearOuts (s : State) : (s.clearOuts).dead = s.dead := rfl
@[simp] theorem State.mem_clearOuts (s : State) : (s.clearOuts).mem = s.mem := rfl
@[simp] theorem State.irqEnable_clearOuts (s : State) : (s.clearOuts).irqEnable = s.irqEnable := rfl
@[simp] theorem State.irqPending_clearOuts (s : State) : (s.clearOuts).irqPending = s.irqPending := rfl
@[simp] theorem State.irqMaster_clearOuts (s : State) : (s.clearOuts).irqMaster = s.irqMaster := rfl
@[simp] theorem State.halted_clearOuts (s : State) : (s.clearOuts).halted = s.halted := rfl
@[simp] theorem State.stopped_clearOuts (s : State) : (s.clearOuts).stopped = s.stopped := rfl
@[simp] theorem State.reactions_clearOuts (s : State) : (s.clearOuts).reactions = s.reactions := rfl
@[simp] theorem State.environment_clearOuts (s : State) : (s.clearOuts).environment = s.environment := rfl
@[simp] theorem State.outs_clearOuts (s : State) : (s.clearOuts).outs = [] := rfl
@[simp] theorem State.params_clearOuts (s : State) : (s.clearOuts).params = s.params := rfl
@[simp] theorem State.reg_clearOuts (s : State) (q : PReg) : (s.clearOuts).reg q = s.reg q := rfl
@[simp] theorem State.pc_clearOuts (s : State) : (s.clearOuts).pc = s.pc := rfl
@[simp] theorem State.xusr_clearOuts (s : State) (i : Reg) : (s.clearOuts).xusr i = s.xusr i := rfl
@[simp] theorem State.x_clearOuts (s : State) (i : Reg) : (s.clearOuts).x i = s.x i := rfl
@[simp] theorem State.thumb_clearOuts (s : State) : (s.clearOuts).thumb = s.thumb := rfl

@[simp] theorem State.cpsr_wake (s : State) : (s.wake).cpsr = s.cpsr := rfl
@[simp] theorem State.spsrFiq_wake (s : State) : (s.wake).spsrFiq = s.spsrFiq := rfl
@[simp] theorem State.spsrSvc_wake (s : State) : (s.wake).spsrSvc = s.spsrSvc := rfl
@[simp] theorem State.spsrAbt_wake (s : State) : (s.wake).spsrAbt = s.spsrAbt := rfl
@[simp] theorem State.spsrIrq_wake (s : State) : (s.wake).spsrIrq = s.spsrIrq := rfl
@[simp] theorem State.spsrUnd_wake (s : State) : (s.wake).spsrUnd = s.spsrUnd := rfl
@[simp] theorem State.bankMode_wake (s : State) : (s.wake).bankMode = s.bankMode := rfl
@[simp] theorem State.pending_wake (s : State) : (s.wake).pending = s.pending := rfl
@[simp] theorem State.opcode_wake (s : State) : (s.wake).opcode = s.opcode := rfl
@[simp] theorem State.delay_wake (s : State) : (s.wake).delay = s.delay := rfl
@[simp] theorem State.dead_wake (s : State) : (s.wake).dead = s.dead := rfl
@[simp] theorem State.mem_wake (s : State) : (s.wake).mem = s.mem := rfl
@[simp] theorem State.irqEnable_wake (s : State) : (s.wake).irqEnable = s.irqEnable := rfl
@[simp] theorem State.irqPending_wake (s : State) : (s.wake).irqPending = s.irqPending := rfl
@[simp] theorem State.irqMaster_wake (s : State) : (s.wake).irqMaster = s.irqMaster := rfl
@[simp] theorem State.halted_wake (s : State) : (s.wake).halted = false := rfl
@[simp] theorem State.stopped_wake (s : State) : (s.wake).stopped = false := rfl
@[simp] theorem State.reactions_wake (s : State) : (s.wake).reactions = s.reactions := rfl
@[simp] theorem State.outs_wake (s : State) : (s.wake).outs = s.outs ++ [.wake] := rfl
@[simp] theorem State.params_wake (s : State) : (s.wake).params = s.params := rfl
@[simp] theorem State.reg_wake (s : State) (q : PReg) : (s.wake).reg q = s.reg q := rfl
@[simp] theorem State.pc_wake (s : State) : (s.wake).pc = s.pc := rfl
@[simp] theorem State.xusr_wake (s : State) (i : Reg) : (s.wake).xusr i = s.xusr i := rfl
@[simp] theorem State.x_wake (s : State) (i : Reg) : (s.wake).x i = s.x i := rfl
@[simp] theorem State.thumb_wake (s : State) : (s.wake).thumb = s.thumb := rfl

/-! The pc write and the register write of a rule. -/

@[simp] theorem State.cpsr_setPc (s : State) (v : Word) : (s.setPc v).cpsr = s.cpsr := rfl
@[simp] theorem State.cpsr_writePc (s : State) (v : Word) : (s.writePc v).cpsr = s.cpsr := rfl
@[simp] theorem State.spsrFiq_setPc (s : State) (v : Word) : (s.setPc v).spsrFiq = s.spsrFiq := rfl
@[simp] theorem State.spsrFiq_writePc (s : State) (v : Word) : (s.writePc v).spsrFiq = s.spsrFiq := rfl
@[simp] theorem State.spsrSvc_setPc (s : State) (v : Word) : (s.setPc v).spsrSvc = s.spsrSvc := rfl
@[simp] theorem State.spsrSvc_writePc (s : State) (v : Word) : (s.writePc v).spsrSvc = s.spsrSvc := rfl
@[simp] theorem State.spsrAbt_setPc (s : State) (v : Word) : (s.setPc v).spsrAbt = s.spsrAbt := rfl
@[simp] theorem State.spsrAbt_writePc (s : State) (v : Word) : (s.writePc v).spsrAbt = s.spsrAbt := rfl
@[simp] theorem State.spsrIrq_setPc (s : State) (v : Word) : (s.setPc v).spsrIrq = s.spsrIrq := rfl
@[simp] theorem State.spsrIrq_writePc (s : State) (v : Word) : (s.writePc v).spsrIrq = s.spsrIrq := rfl
@[simp] theorem State.spsrUnd_setPc (s : State) (v : Word) : (s.setPc v).spsrUnd = s.spsrUnd := rfl
@[simp] theorem State.spsrUnd_writePc (s : State) (v : Word) : (s.writePc v).spsrUnd = s.spsrUnd := rfl
@[simp] theorem State.bankMode_setPc (s : State) (v : Word) : (s.setPc v).bankMode = s.bankMode := rfl
@[simp] theorem State.bankMode_writePc (s : State) (v : Word) : (s.writePc v).bankMode = s.bankMode := rfl
@[simp] theorem State.pending_setPc (s : State) (v : Word) : (s.setPc v).pending = s.pending := rfl
@[simp] theorem State.pending_writePc (s : State) (v : Word) : (s.writePc v).pending = s.pending := rfl
@[simp] theorem State.opcode_setPc (s : State) (v : Word) : (s.setPc v).opcode = s.opcode := rfl
@[simp] theorem State.opcode_writePc (s : State) (v : Word) : (s.writePc v).opcode = s.opcode := rfl
@[simp] theorem State.delay_setPc (s : State) (v : Word) : (s.setPc v).delay = s.delay := rfl
@[simp] theorem State.delay_writePc (s : State) (v : Word) : (s.writePc v).delay = s.delay := rfl
@[simp] theorem State.dead_setPc (s : State) (v : Word) : (s.setPc v).dead = s.dead := rfl
@[simp] theorem State.dead_writePc (s : State) (v : Word) : (s.writePc v).dead = s.dead := rfl
@[simp] theorem State.mem_setPc (s : State) (v : Word) : (s.setPc v).mem = s.mem := rfl
@[simp] theorem State.mem_writePc (s : State) (v : Word) : (s.writePc v).mem = s.mem := rfl
@[simp] theorem State.irqEnable_setPc (s : State) (v : Word) : (s.setPc v).irqEnable = s.irqEnable := rfl
@[simp] theorem State.irqEnable_writePc (s : State) (v : Word) : (s.writePc v).irqEnable = s.irqEnable := rfl
@[simp] theorem State.irqPending_setPc (s : State) (v : Word) : (s.setPc v).irqPending = s.irqPending := rfl
@[simp] theorem State.irqPending_writePc (s : State) (v : Word) : (s.writePc v).irqPending = s.irqPending := rfl
@[simp] theorem State.irqMaster_setPc (s : State) (v : Word) : (s.setPc v).irqMaster = s.irqMaster := rfl
@[simp] theorem State.irqMaster_writePc (s : State) (v : Word) : (s.writePc v).irqMaster = s.irqMaster := rfl
@[simp] theorem State.halted_setPc (s : State) (v : Word) : (s.setPc v).halted = s.halted := rfl
@[simp] theorem State.halted_writePc (s : State) (v : Word) : (s.writePc v).halted = s.halted := rfl
@[simp] theorem State.stopped_setPc (s : State) (v : Word) : (s.setPc v).stopped = s.stopped := rfl
@[simp] theorem State.reactions_setPc (s : State) (v : Word) : (s.setPc v).reactions = s.reactions := rfl
@[simp] theorem State.environment_setPc (s : State) (v : Word) : (s.setPc v).environment = s.environment := rfl
@[simp] theorem State.stopped_writePc (s : State) (v : Word) : (s.writePc v).stopped = s.stopped := rfl
@[simp] theorem State.reactions_writePc (s : State) (v : Word) : (s.writePc v).reactions = s.reactions := rfl
@[simp] theorem State.environment_writePc (s : State) (v : Word) : (s.writePc v).environment = s.environment := rfl
@[simp] theorem State.outs_setPc (s : State) (v : Word) : (s.setPc v).outs = s.outs := rfl
@[simp] theorem State.outs_writePc (s : State) (v : Word) : (s.writePc v).outs = s.outs := rfl
@[simp] theorem State.params_setPc (s : State) (v : Word) : (s.setPc v).params = s.params := rfl
@[simp] theorem State.params_writePc (s : State) (v : Word) : (s.writePc v).params = s.params := rfl
@[simp] theorem State.cpsr_setX (s : State) (i : Reg) (v : Word) : (s.setX i v).cpsr = s.cpsr := by unfold State.setX; split <;> rfl
@[simp] theorem State.spsrFiq_setX (s : State) (i : Reg) (v : Word) : (s.setX i v).spsrFiq = s.spsrFiq := by unfold State.setX; split <;> rfl
@[simp] theorem State.spsrSvc_setX (s : State) (i : Reg) (v : Word) : (s.setX i v).spsrSvc = s.spsrSvc := by unfold State.setX; split <;> rfl
@[simp] theorem State.spsrAbt_setX (s : State) (i : Reg) (v : Word) : (s.setX i v).spsrAbt = s.spsrAbt := by unfold State.setX; split <;> rfl
@[simp] theorem State.spsrIrq_setX (s : State) (i : Reg) (v : Word) : (s.setX i v).spsrIrq = s.spsrIrq := by unfold State.setX; split <;> rfl
@[simp] theorem State.spsrUnd_setX (s : State) (i : Reg) (v : Word) : (s.setX i v).spsrUnd = s.spsrUnd := by unfold State.setX; split <;> rfl
@[simp] theorem State.bankMode_setX (s : State) (i : Reg) (v : Word) : (s.setX i v).bankMode = s.bankMode := by unfold State.setX; split <;> rfl
@[simp] theorem State.pending_setX (s : State) (i : Reg) (v : Word) : (s.setX i v).pending = s.pending := by unfold State.setX; split <;> rfl
@[simp] theorem State.opcode_setX (s : State) (i : Reg) (v : Word) : (s.setX i v).opcode = s.opcode := by unfold State.setX; split <;> rfl
@[simp] theorem State.delay_setX (s : State) (i : Reg) (v : Word) : (s.setX i v).delay = s.delay := by unfold State.setX; split <;> rfl
@[simp] theorem State.dead_setX (s : State) (i : Reg) (v : Word) : (s.setX i v).dead = s.dead := by unfold State.setX; split <;> rfl
@[simp] theorem State.mem_setX (s : State) (i : Reg) (v : Word) : (s.setX i v).mem = s.mem := by unfold State.setX; split <;> rfl
@[simp] theorem State.irqEnable_setX (s : State) (i : Reg) (v : Word) : (s.setX i v).irqEnable = s.irqEnable := by unfold State.setX; split <;> rfl
@[simp] theorem State.irqPending_setX (s : State) (i : Reg) (v : Word) : (s.setX i v).irqPending = s.irqPending := by unfold State.setX; split <;> rfl
@[simp] theorem State.irqMaster_setX (s : State) (i : Reg) (v : Word) : (s.setX i v).irqMaster = s.irqMaster := by unfold State.setX; split <;> rfl
@[simp] theorem State.halted_setX (s : State) (i : Reg) (v : Word) : (s.setX i v).halted = s.halted := by unfold State.setX; split <;> rfl
@[simp] theorem State.stopped_setX (s : State) (i : Reg) (v : Word) : (s.setX i v).stopped = s.stopped := by unfold State.setX; split <;> rfl
@[simp] theorem State.reactions_setX (s : State) (i : Reg) (v : Word) : (s.setX i v).reactions = s.reactions := by unfold State.setX; split <;> rfl
@[simp] theorem State.environment_setX (s : State) (i : Reg) (v : Word) : (s.setX i v).environment = s.environment := by unfold State.setX; split <;> rfl
@[simp] theorem State.outs_setX (s : State) (i : Reg) (v : Word) : (s.setX i v).outs = s.outs := by unfold State.setX; split <;> rfl
@[simp] theorem State.params_setX (s : State) (i : Reg) (v : Word) : (s.setX i v).params = s.params := by unfold State.setX; split <;> rfl

/-! The SPSR write: one of the five words, by the mode. -/

@[simp] theorem State.cpsr_setSpsrOf (s : State) (m : Mode) (v : Word) : (s.setSpsrOf m v).cpsr = s.cpsr := by cases m <;> rfl
@[simp] theorem State.spsrFiq_setSpsrOf (s : State) (m : Mode) (v : Word) : (s.setSpsrOf m v).spsrFiq = if m = .fiq then v else s.spsrFiq := by cases m <;> rfl
@[simp] theorem State.spsrSvc_setSpsrOf (s : State) (m : Mode) (v : Word) : (s.setSpsrOf m v).spsrSvc = if m = .svc then v else s.spsrSvc := by cases m <;> rfl
@[simp] theorem State.spsrAbt_setSpsrOf (s : State) (m : Mode) (v : Word) : (s.setSpsrOf m v).spsrAbt = if m = .abt then v else s.spsrAbt := by cases m <;> rfl
@[simp] theorem State.spsrIrq_setSpsrOf (s : State) (m : Mode) (v : Word) : (s.setSpsrOf m v).spsrIrq = if m = .irq then v else s.spsrIrq := by cases m <;> rfl
@[simp] theorem State.spsrUnd_setSpsrOf (s : State) (m : Mode) (v : Word) : (s.setSpsrOf m v).spsrUnd = if m = .und then v else s.spsrUnd := by cases m <;> rfl
@[simp] theorem State.bankMode_setSpsrOf (s : State) (m : Mode) (v : Word) : (s.setSpsrOf m v).bankMode = s.bankMode := by cases m <;> rfl
@[simp] theorem State.pending_setSpsrOf (s : State) (m : Mode) (v : Word) : (s.setSpsrOf m v).pending = s.pending := by cases m <;> rfl
@[simp] theorem State.opcode_setSpsrOf (s : State) (m : Mode) (v : Word) : (s.setSpsrOf m v).opcode = s.opcode := by cases m <;> rfl
@[simp] theorem State.delay_setSpsrOf (s : State) (m : Mode) (v : Word) : (s.setSpsrOf m v).delay = s.delay := by cases m <;> rfl
@[simp] theorem State.dead_setSpsrOf (s : State) (m : Mode) (v : Word) : (s.setSpsrOf m v).dead = s.dead := by cases m <;> rfl
@[simp] theorem State.mem_setSpsrOf (s : State) (m : Mode) (v : Word) : (s.setSpsrOf m v).mem = s.mem := by cases m <;> rfl
@[simp] theorem State.irqEnable_setSpsrOf (s : State) (m : Mode) (v : Word) : (s.setSpsrOf m v).irqEnable = s.irqEnable := by cases m <;> rfl
@[simp] theorem State.irqPending_setSpsrOf (s : State) (m : Mode) (v : Word) : (s.setSpsrOf m v).irqPending = s.irqPending := by cases m <;> rfl
@[simp] theorem State.irqMaster_setSpsrOf (s : State) (m : Mode) (v : Word) : (s.setSpsrOf m v).irqMaster = s.irqMaster := by cases m <;> rfl
@[simp] theorem State.halted_setSpsrOf (s : State) (m : Mode) (v : Word) : (s.setSpsrOf m v).halted = s.halted := by cases m <;> rfl
@[simp] theorem State.stopped_setSpsrOf (s : State) (m : Mode) (v : Word) : (s.setSpsrOf m v).stopped = s.stopped := by cases m <;> rfl
@[simp] theorem State.reactions_setSpsrOf (s : State) (m : Mode) (v : Word) : (s.setSpsrOf m v).reactions = s.reactions := by cases m <;> rfl
@[simp] theorem State.environment_setSpsrOf (s : State) (m : Mode) (v : Word) : (s.setSpsrOf m v).environment = s.environment := by cases m <;> rfl
@[simp] theorem State.outs_setSpsrOf (s : State) (m : Mode) (v : Word) : (s.setSpsrOf m v).outs = s.outs := by cases m <;> rfl
@[simp] theorem State.params_setSpsrOf (s : State) (m : Mode) (v : Word) : (s.setSpsrOf m v).params = s.params := by cases m <;> rfl
@[simp] theorem State.reg_setSpsrOf (s : State) (m : Mode) (v : Word) (q : PReg) : (s.setSpsrOf m v).reg q = s.reg q := by cases m <;> rfl

/-! Stores and flags. -/

/-! One event of the core: the core's own state is as before, but for the record of the event, and the environment is what the event
leaves of it. -/

@[simp] theorem State.cpsr_called (s : State) (c : OutEvent) : (s.called c).cpsr = s.cpsr := rfl
@[simp] theorem State.spsrFiq_called (s : State) (c : OutEvent) : (s.called c).spsrFiq = s.spsrFiq := rfl
@[simp] theorem State.spsrSvc_called (s : State) (c : OutEvent) : (s.called c).spsrSvc = s.spsrSvc := rfl
@[simp] theorem State.spsrAbt_called (s : State) (c : OutEvent) : (s.called c).spsrAbt = s.spsrAbt := rfl
@[simp] theorem State.spsrIrq_called (s : State) (c : OutEvent) : (s.called c).spsrIrq = s.spsrIrq := rfl
@[simp] theorem State.spsrUnd_called (s : State) (c : OutEvent) : (s.called c).spsrUnd = s.spsrUnd := rfl
@[simp] theorem State.bankMode_called (s : State) (c : OutEvent) : (s.called c).bankMode = s.bankMode := rfl
@[simp] theorem State.pending_called (s : State) (c : OutEvent) : (s.called c).pending = s.pending := rfl
@[simp] theorem State.opcode_called (s : State) (c : OutEvent) : (s.called c).opcode = s.opcode := rfl
@[simp] theorem State.delay_called (s : State) (c : OutEvent) : (s.called c).delay = s.delay := rfl
@[simp] theorem State.dead_called (s : State) (c : OutEvent) : (s.called c).dead = s.dead := rfl
@[simp] theorem State.params_called (s : State) (c : OutEvent) : (s.called c).params = s.params := rfl
@[simp] theorem State.pc_called (s : State) (c : OutEvent) : (s.called c).pc = s.pc := rfl
@[simp] theorem State.thumb_called (s : State) (c : OutEvent) : (s.called c).thumb = s.thumb := rfl
@[simp] theorem State.reg_called (s : State) (c : OutEvent) (q : PReg) : (s.called c).reg q = s.reg q := rfl
@[simp] theorem State.x_called (s : State) (c : OutEvent) (i : Reg) : (s.called c).x i = s.x i := rfl
@[simp] theorem State.xusr_called (s : State) (c : OutEvent) (i : Reg) : (s.called c).xusr i = s.xusr i := rfl
@[simp] theorem State.outs_called (s : State) (c : OutEvent) : (s.called c).outs = s.outs ++ [c] := rfl
@[simp] theorem State.environment_called (s : State) (c : OutEvent) :
    (s.called c).environment = s.environment.answer c := rfl
@[simp] theorem State.environment_wake (s : State) : s.wake.environment = s.environment.answer .wake := rfl
@[simp] theorem State.storeWord_eq (s : State) (a v : Word) : s.storeWord a v = s.called (.write .word (alignWord a) v) := rfl
@[simp] theorem State.storeHalf_eq (s : State) (a v : Word) :
    s.storeHalf a v = s.called (.write .half (alignHalf a) ((v.extractLsb' 0 16).setWidth 32)) := rfl
@[simp] theorem State.storeByte_eq (s : State) (a v : Word) :
    s.storeByte a v = s.called (.write .byte a ((v.extractLsb' 0 8).setWidth 32)) := rfl

/-- The environment's part of the state, field by field. -/
theorem State.mem_eq (s : State) : s.mem = s.environment.mem := rfl
theorem State.reactions_eq (s : State) : s.reactions = s.environment.reactions := rfl
theorem State.inputs_eq (s : State) : s.environment.inputs = ⟨s.irqEnable, s.irqPending, s.irqMaster, s.halted, s.stopped⟩ := rfl

/-- Two states with one environment hold one memory, one list of reactions and the same inputs. -/
theorem State.of_environment_eq {s t : State} (h : t.environment = s.environment) :
    t.mem = s.mem ∧ t.irqEnable = s.irqEnable ∧ t.irqPending = s.irqPending ∧ t.irqMaster = s.irqMaster ∧
      t.halted = s.halted ∧ t.stopped = s.stopped ∧ t.reactions = s.reactions := by
  simpa [State.environment, and_assoc, and_comm, and_left_comm] using h

@[simp] theorem State.spsrFiq_setFlags (s : State) (n z c v : Bool) : (s.setFlags n z c v).spsrFiq = s.spsrFiq := rfl
@[simp] theorem State.spsrSvc_setFlags (s : State) (n z c v : Bool) : (s.setFlags n z c v).spsrSvc = s.spsrSvc := rfl
@[simp] theorem State.spsrAbt_setFlags (s : State) (n z c v : Bool) : (s.setFlags n z c v).spsrAbt = s.spsrAbt := rfl
@[simp] theorem State.spsrIrq_setFlags (s : State) (n z c v : Bool) : (s.setFlags n z c v).spsrIrq = s.spsrIrq := rfl
@[simp] theorem State.spsrUnd_setFlags (s : State) (n z c v : Bool) : (s.setFlags n z c v).spsrUnd = s.spsrUnd := rfl
@[simp] theorem State.bankMode_setFlags (s : State) (n z c v : Bool) : (s.setFlags n z c v).bankMode = s.bankMode := rfl
@[simp] theorem State.pending_setFlags (s : State) (n z c v : Bool) : (s.setFlags n z c v).pending = s.pending := rfl
@[simp] theorem State.opcode_setFlags (s : State) (n z c v : Bool) : (s.setFlags n z c v).opcode = s.opcode := rfl
@[simp] theorem State.delay_setFlags (s : State) (n z c v : Bool) : (s.setFlags n z c v).delay = s.delay := rfl
@[simp] theorem State.dead_setFlags (s : State) (n z c v : Bool) : (s.setFlags n z c v).dead = s.dead := rfl
@[simp] theorem State.mem_setFlags (s : State) (n z c v : Bool) : (s.setFlags n z c v).mem = s.mem := rfl
@[simp] theorem State.irqEnable_setFlags (s : State) (n z c v : Bool) : (s.setFlags n z c v).irqEnable = s.irqEnable := rfl
@[simp] theorem State.irqPending_setFlags (s : State) (n z c v : Bool) : (s.setFlags n z c v).irqPending = s.irqPending := rfl
@[simp] theorem State.irqMaster_setFlags (s : State) (n z c v : Bool) : (s.setFlags n z c v).irqMaster = s.irqMaster := rfl
@[simp] theorem State.halted_setFlags (s : State) (n z c v : Bool) : (s.setFlags n z c v).halted = s.halted := rfl
@[simp] theorem State.stopped_setFlags (s : State) (n z c v : Bool) : (s.setFlags n z c v).stopped = s.stopped := rfl
@[simp] theorem State.reactions_setFlags (s : State) (n z c v : Bool) : (s.setFlags n z c v).reactions = s.reactions := rfl
@[simp] theorem State.environment_setFlags (s : State) (n z c v : Bool) : (s.setFlags n z c v).environment = s.environment := rfl
@[simp] theorem State.outs_setFlags (s : State) (n z c v : Bool) : (s.setFlags n z c v).outs = s.outs := rfl
@[simp] theorem State.params_setFlags (s : State) (n z c v : Bool) : (s.setFlags n z c v).params = s.params := rfl
@[simp] theorem State.cpsr_setFlags (s : State) (n z c v : Bool) :
    (s.setFlags n z c v).cpsr = Psr.withFlags s.cpsr n z c v := rfl
@[simp] theorem State.reg_setFlags (s : State) (n z c v : Bool) (q : PReg) : (s.setFlags n z c v).reg q = s.reg q := rfl
@[simp] theorem State.pc_setFlags (s : State) (n z c v : Bool) : (s.setFlags n z c v).pc = s.pc := rfl
@[simp] theorem State.pc_setAluFlags (s : State) (a : AluOut) : (s.setAluFlags a).pc = s.pc := rfl
@[simp] theorem State.pc_setMulFlags (s : State) (n z : Bool) : (s.setMulFlags n z).pc = s.pc := rfl
@[simp] theorem State.pc_setSpsrOf (s : State) (m : Mode) (v : Word) : (s.setSpsrOf m v).pc = s.pc := by cases m <;> rfl
@[simp] theorem State.spsrFiq_setAluFlags (s : State) (a : AluOut) : (s.setAluFlags a).spsrFiq = s.spsrFiq := rfl
@[simp] theorem State.spsrFiq_setMulFlags (s : State) (n z : Bool) : (s.setMulFlags n z).spsrFiq = s.spsrFiq := rfl
@[simp] theorem State.spsrSvc_setAluFlags (s : State) (a : AluOut) : (s.setAluFlags a).spsrSvc = s.spsrSvc := rfl
@[simp] theorem State.spsrSvc_setMulFlags (s : State) (n z : Bool) : (s.setMulFlags n z).spsrSvc = s.spsrSvc := rfl
@[simp] theorem State.spsrAbt_setAluFlags (s : State) (a : AluOut) : (s.setAluFlags a).spsrAbt = s.spsrAbt := rfl
@[simp] theorem State.spsrAbt_setMulFlags (s : State) (n z : Bool) : (s.setMulFlags n z).spsrAbt = s.spsrAbt := rfl
@[simp] theorem State.spsrIrq_setAluFlags (s : State) (a : AluOut) : (s.setAluFlags a).spsrIrq = s.spsrIrq := rfl
@[simp] theorem State.spsrIrq_setMulFlags (s : State) (n z : Bool) : (s.setMulFlags n z).spsrIrq = s.spsrIrq := rfl
@[simp] theorem State.spsrUnd_setAluFlags (s : State) (a : AluOut) : (s.setAluFlags a).spsrUnd = s.spsrUnd := rfl
@[simp] theorem State.spsrUnd_setMulFlags (s : State) (n z : Bool) : (s.setMulFlags n z).spsrUnd = s.spsrUnd := rfl
@[simp] theorem State.bankMode_setAluFlags (s : State) (a : AluOut) : (s.setAluFlags a).bankMode = s.bankMode := rfl
@[simp] theorem State.bankMode_setMulFlags (s : State) (n z : Bool) : (s.setMulFlags n z).bankMode = s.bankMode := rfl
@[simp] theorem State.pending_setAluFlags (s : State) (a : AluOut) : (s.setAluFlags a).pending = s.pending := rfl
@[simp] theorem State.pending_setMulFlags (s : State) (n z : Bool) : (s.setMulFlags n z).pending = s.pending := rfl
@[simp] theorem State.opcode_setAluFlags (s : State) (a : AluOut) : (s.setAluFlags a).opcode = s.opcode := rfl
@[simp] theorem State.opcode_setMulFlags (s : State) (n z : Bool) : (s.setMulFlags n z).opcode = s.opcode := rfl
@[simp] theorem State.delay_setAluFlags (s : State) (a : AluOut) : (s.setAluFlags a).delay = s.delay := rfl
@[simp] theorem State.delay_setMulFlags (s : State) (n z : Bool) : (s.setMulFlags n z).delay = s.delay := rfl
@[simp] theorem State.dead_setAluFlags (s : State) (a : AluOut) : (s.setAluFlags a).dead = s.dead := rfl
@[simp] theorem State.dead_setMulFlags (s : State) (n z : Bool) : (s.setMulFlags n z).dead = s.dead := rfl
@[simp] theorem State.mem_setAluFlags (s : State) (a : AluOut) : (s.setAluFlags a).mem = s.mem := rfl
@[simp] theorem State.mem_setMulFlags (s : State) (n z : Bool) : (s.setMulFlags n z).mem = s.mem := rfl
@[simp] theorem State.irqEnable_setAluFlags (s : State) (a : AluOut) : (s.setAluFlags a).irqEnable = s.irqEnable := rfl
@[simp] theorem State.irqEnable_setMulFlags (s : State) (n z : Bool) : (s.setMulFlags n z).irqEnable = s.irqEnable := rfl
@[simp] theorem State.irqPending_setAluFlags (s : State) (a : AluOut) : (s.setAluFlags a).irqPending = s.irqPending := rfl
@[simp] theorem State.irqPending_setMulFlags (s : State) (n z : Bool) : (s.setMulFlags n z).irqPending = s.irqPending := rfl
@[simp] theorem State.irqMaster_setAluFlags (s : State) (a : AluOut) : (s.setAluFlags a).irqMaster = s.irqMaster := rfl
@[simp] theorem State.irqMaster_setMulFlags (s : State) (n z : Bool) : (s.setMulFlags n z).irqMaster = s.irqMaster := rfl
@[simp] theorem State.halted_setAluFlags (s : State) (a : AluOut) : (s.setAluFlags a).halted = s.halted := rfl
@[simp] theorem State.halted_setMulFlags (s : State) (n z : Bool) : (s.setMulFlags n z).halted = s.halted := rfl
@[simp] theorem State.stopped_setAluFlags (s : State) (a : AluOut) : (s.setAluFlags a).stopped = s.stopped := rfl
@[simp] theorem State.reactions_setAluFlags (s : State) (a : AluOut) : (s.setAluFlags a).reactions = s.reactions := rfl
@[simp] theorem State.environment_setAluFlags (s : State) (a : AluOut) : (s.setAluFlags a).environment = s.environment := rfl
@[simp] theorem State.stopped_setMulFlags (s : State) (n z : Bool) : (s.setMulFlags n z).stopped = s.stopped := rfl
@[simp] theorem State.reactions_setMulFlags (s : State) (n z : Bool) : (s.setMulFlags n z).reactions = s.reactions := rfl
@[simp] theorem State.environment_setMulFlags (s : State) (n z : Bool) : (s.setMulFlags n z).environment = s.environment := rfl
@[simp] theorem State.outs_setAluFlags (s : State) (a : AluOut) : (s.setAluFlags a).outs = s.outs := rfl
@[simp] theorem State.outs_setMulFlags (s : State) (n z : Bool) : (s.setMulFlags n z).outs = s.outs := rfl
@[simp] theorem State.params_setAluFlags (s : State) (a : AluOut) : (s.setAluFlags a).params = s.params := rfl
@[simp] theorem State.params_setMulFlags (s : State) (n z : Bool) : (s.setMulFlags n z).params = s.params := rfl
@[simp] theorem State.cpsr_setAluFlags (s : State) (a : AluOut) :
    (s.setAluFlags a).cpsr = Psr.withFlags s.cpsr (a.r.getLsbD 31) (a.r == 0#32) a.c a.v := rfl
@[simp] theorem State.reg_setAluFlags (s : State) (a : AluOut) (q : PReg) : (s.setAluFlags a).reg q = s.reg q := rfl
@[simp] theorem State.cpsr_setMulFlags (s : State) (n z : Bool) :
    (s.setMulFlags n z).cpsr = Psr.withFlags s.cpsr n z false false := rfl
@[simp] theorem State.reg_setMulFlags (s : State) (n z : Bool) (q : PReg) : (s.setMulFlags n z).reg q = s.reg q := rfl

end Sys2Proof.Machine
end

