-- ==== Sys2Proof/Laws/Ops.lean ====
section
/-! SUPPORT. The laws of the named operations over registers and of the instruction frame (spec/10_state.md R14, R15;
spec/40_cycle_and_condition.md R88 to R90; spec/60_exceptions.md R304). -/

namespace Sys2Proof.Machine

/-! ## The bank map -/

@[simp] theorem phys_fifteen (m : Mode) : phys m 15#4 = .pc := by cases m <;> rfl

theorem phys_ne_pc (m : Mode) {i : Reg} (h : i ≠ 15#4) : phys m i ≠ .pc := by
  revert i; cases m <;> decide

theorem phys_injective (m : Mode) {i j : Reg} (h : phys m i = phys m j) : i = j := by
  revert i j; cases m <;> decide

theorem phys_eq_pc (m : Mode) {i : Reg} : phys m i = .pc ↔ i = 15#4 := by
  constructor
  · intro h; by_contra hi; exact phys_ne_pc m hi h
  · rintro rfl; simp

theorem pc_ne_phys (m : Mode) {i : Reg} (h : i ≠ 15#4) : PReg.pc ≠ phys m i := fun e => phys_ne_pc m h e.symm

/-! ## Registers -/

theorem State.pc_eq (s : State) : s.pc = s.reg .pc := rfl

theorem State.x_eq (s : State) (i : Reg) : s.x i = s.reg (phys s.bankMode i) := rfl

theorem State.xusr_eq (s : State) (i : Reg) : s.xusr i = s.reg (phys .usr i) := rfl

theorem State.thumb_eq (s : State) : s.thumb = Psr.t s.cpsr := rfl

@[simp] theorem State.x_fifteen (s : State) : s.x 15#4 = s.pc := by simp [State.x_eq, State.pc_eq]

@[simp] theorem State.thumb_setX (s : State) (i : Reg) (v : Word) : (s.setX i v).thumb = s.thumb := by simp [State.thumb_eq]
@[simp] theorem State.thumb_writePc (s : State) (v : Word) : (s.writePc v).thumb = s.thumb := rfl
@[simp] theorem State.thumb_setAluFlags (s : State) (a : AluOut) : (s.setAluFlags a).thumb = s.thumb := by simp [State.thumb_eq]
@[simp] theorem State.thumb_setMulFlags (s : State) (n z : Bool) : (s.setMulFlags n z).thumb = s.thumb := by simp [State.thumb_eq]
@[simp] theorem State.thumb_setSpsrOf (s : State) (m : Mode) (v : Word) : (s.setSpsrOf m v).thumb = s.thumb := by simp [State.thumb_eq]

theorem State.pc_setReg (s : State) {p : PReg} (v : Word) (h : p ≠ .pc) : (s.setReg p v).pc = s.pc :=
  s.reg_setReg_of_ne v h.symm

@[simp] theorem State.pc_setPc (s : State) (v : Word) : (s.setPc v).pc = v := s.reg_setReg_self .pc v

theorem State.reg_setPc (s : State) (v : Word) (q : PReg) : (s.setPc v).reg q = if q = .pc then v else s.reg q :=
  s.reg_setReg .pc q v

theorem State.reg_setPc_of_ne (s : State) (v : Word) {q : PReg} (h : q ≠ .pc) : (s.setPc v).reg q = s.reg q :=
  s.reg_setReg_of_ne v h

@[simp] theorem State.pc_writePc (s : State) (v : Word) : (s.writePc v).pc = s.alignTarget v := s.pc_setPc _

theorem State.reg_writePc (s : State) (v : Word) (q : PReg) :
    (s.writePc v).reg q = if q = .pc then s.alignTarget v else s.reg q := s.reg_setReg .pc q _

theorem State.setX_of_ne (s : State) {i : Reg} (v : Word) (h : i ≠ 15#4) : s.setX i v = s.setReg (phys s.bankMode i) v := by
  simp [State.setX, h]

@[simp] theorem State.setX_fifteen (s : State) (v : Word) : s.setX 15#4 v = s.writePc v := rfl

theorem State.reg_setX (s : State) (i : Reg) (v : Word) (q : PReg) :
    (s.setX i v).reg q = if q = phys s.bankMode i then (if i = 15#4 then s.alignTarget v else v) else s.reg q := by
  by_cases h : i = 15#4
  · subst h; simp [State.reg_writePc]
  · simp [State.setX_of_ne _ _ h, State.reg_setReg, h]

@[simp] theorem State.pc_setX (s : State) (i : Reg) (v : Word) :
    (s.setX i v).pc = if i = 15#4 then s.alignTarget v else s.pc := by
  by_cases h : i = 15#4
  · subst h; simp
  · simp [State.setX_of_ne _ _ h, State.pc_setReg, phys_ne_pc, h]

theorem alignTarget_arm {s : State} (h : s.thumb = false) (v : Word) : s.alignTarget v = v &&& 0xFFFFFFFC#32 := by
  simp [State.alignTarget, h]

theorem alignTarget_thumb {s : State} (h : s.thumb = true) (v : Word) : s.alignTarget v = v &&& 0xFFFFFFFE#32 := by
  simp [State.alignTarget, h]

theorem alignTarget_eq (s : State) (v : Word) :
    s.alignTarget v = v &&& (if s.thumb then 0xFFFFFFFE#32 else 0xFFFFFFFC#32) := by
  unfold State.alignTarget; split <;> rfl

theorem width_arm {s : State} (h : s.thumb = false) : s.width = 4#32 := by simp [State.width, h]
theorem width_thumb {s : State} (h : s.thumb = true) : s.width = 2#32 := by simp [State.width, h]
theorem xop_arm {s : State} (h : s.thumb = false) (i : Reg) : s.xop i = if i = 15#4 then s.pc + 8#32 else s.x i := by
  simp [State.xop, State.pcAhead, h]
theorem xop_thumb {s : State} (h : s.thumb = true) (i : Reg) : s.xop i = if i = 15#4 then s.pc + 4#32 else s.x i := by
  simp [State.xop, State.pcAhead, h]

/-! Alignment twice is alignment once. -/

theorem and_and_self (v m : Word) : v &&& m &&& m = v &&& m := by rw [BitVec.and_assoc, BitVec.and_self]

@[simp] theorem State.alignTarget_alignTarget (s : State) (v : Word) : s.alignTarget (s.alignTarget v) = s.alignTarget v := by
  unfold State.alignTarget; split <;> exact and_and_self _ _

theorem alignTarget_congr {s t : State} (h : t.thumb = s.thumb) (v : Word) : t.alignTarget v = s.alignTarget v := by
  simp [State.alignTarget, h]

/-! ## The frame -/

@[simp] theorem Run.st_start (s : State) : (Run.start s).st = s := rfl
@[simp] theorem Run.origin_start (s : State) : (Run.start s).origin = s := rfl
@[simp] theorem Run.origin_map (r : Run) (f : State → State) : (r.map f).origin = r.origin := rfl
@[simp] theorem Run.origin_jump (r : Run) (v : Word) : (r.jump v).origin = r.origin := rfl
@[simp] theorem Run.origin_setX (r : Run) (i : Reg) (v : Word) : (r.setX i v).origin = r.origin := by
  unfold Run.setX; split <;> rfl
@[simp] theorem Run.width_start (s : State) : (Run.start s).width = s.width := rfl
@[simp] theorem Run.redirected_start (s : State) : (Run.start s).redirected = false := rfl
@[simp] theorem Run.st_map (r : Run) (f : State → State) : (r.map f).st = f r.st := rfl
@[simp] theorem Run.width_map (r : Run) (f : State → State) : (r.map f).width = r.width := rfl
@[simp] theorem Run.redirected_map (r : Run) (f : State → State) : (r.map f).redirected = r.redirected := rfl
@[simp] theorem Run.st_jump (r : Run) (v : Word) : (r.jump v).st = r.st.writePc v := rfl
@[simp] theorem Run.width_jump (r : Run) (v : Word) : (r.jump v).width = r.width := rfl
@[simp] theorem Run.redirected_jump (r : Run) (v : Word) : (r.jump v).redirected = true := rfl
@[simp] theorem Run.st_setX (r : Run) (i : Reg) (v : Word) : (r.setX i v).st = r.st.setX i v := by
  unfold Run.setX State.setX; split <;> rfl
@[simp] theorem Run.width_setX (r : Run) (i : Reg) (v : Word) : (r.setX i v).width = r.width := by
  unfold Run.setX; split <;> rfl
@[simp] theorem Run.redirected_setX (r : Run) (i : Reg) (v : Word) :
    (r.setX i v).redirected = (r.redirected || decide (i = 15#4)) := by
  unfold Run.setX; split <;> simp_all

/-- The state an instruction ends in, by the number its row of the table gives. -/
def Run.result (r : Run) (table : Nat) : State :=
  (if r.redirected then r.st else r.st.setPc (r.st.pc + r.width)).setDelay (r.origin.extraCycles r.redirected table)

theorem Run.finish_eq (r : Run) (table : Nat) : r.finish table = .next (r.result table) := rfl

@[simp] theorem Run.pc_result (r : Run) (table : Nat) :
    (r.result table).pc = if r.redirected then r.st.pc else r.st.pc + r.width := by
  unfold Run.result; split <;> simp

theorem Run.reg_result (r : Run) (table : Nat) {q : PReg} (h : q ≠ .pc) : (r.result table).reg q = r.st.reg q := by
  unfold Run.result; split <;> simp [State.reg_setPc, h]

@[simp] theorem Run.delay_result (r : Run) (table : Nat) :
    (r.result table).delay = r.origin.extraCycles r.redirected table := rfl
@[simp] theorem Run.cpsr_result (r : Run) (table : Nat) : (r.result table).cpsr = r.st.cpsr := by
  unfold Run.result; split <;> rfl
@[simp] theorem Run.spsrFiq_result (r : Run) (table : Nat) : (r.result table).spsrFiq = r.st.spsrFiq := by
  unfold Run.result; split <;> rfl
@[simp] theorem Run.spsrSvc_result (r : Run) (table : Nat) : (r.result table).spsrSvc = r.st.spsrSvc := by
  unfold Run.result; split <;> rfl
@[simp] theorem Run.spsrAbt_result (r : Run) (table : Nat) : (r.result table).spsrAbt = r.st.spsrAbt := by
  unfold Run.result; split <;> rfl
@[simp] theorem Run.spsrIrq_result (r : Run) (table : Nat) : (r.result table).spsrIrq = r.st.spsrIrq := by
  unfold Run.result; split <;> rfl
@[simp] theorem Run.spsrUnd_result (r : Run) (table : Nat) : (r.result table).spsrUnd = r.st.spsrUnd := by
  unfold Run.result; split <;> rfl
@[simp] theorem Run.bankMode_result (r : Run) (table : Nat) : (r.result table).bankMode = r.st.bankMode := by
  unfold Run.result; split <;> rfl
@[simp] theorem Run.pending_result (r : Run) (table : Nat) : (r.result table).pending = r.st.pending := by
  unfold Run.result; split <;> rfl
@[simp] theorem Run.opcode_result (r : Run) (table : Nat) : (r.result table).opcode = r.st.opcode := by
  unfold Run.result; split <;> rfl
@[simp] theorem Run.dead_result (r : Run) (table : Nat) : (r.result table).dead = r.st.dead := by
  unfold Run.result; split <;> rfl
@[simp] theorem Run.mem_result (r : Run) (table : Nat) : (r.result table).mem = r.st.mem := by
  unfold Run.result; split <;> rfl
@[simp] theorem Run.irqEnable_result (r : Run) (table : Nat) : (r.result table).irqEnable = r.st.irqEnable := by
  unfold Run.result; split <;> rfl
@[simp] theorem Run.irqPending_result (r : Run) (table : Nat) : (r.result table).irqPending = r.st.irqPending := by
  unfold Run.result; split <;> rfl
@[simp] theorem Run.irqMaster_result (r : Run) (table : Nat) : (r.result table).irqMaster = r.st.irqMaster := by
  unfold Run.result; split <;> rfl
@[simp] theorem Run.halted_result (r : Run) (table : Nat) : (r.result table).halted = r.st.halted := by
  unfold Run.result; split <;> rfl
@[simp] theorem Run.stopped_result (r : Run) (table : Nat) : (r.result table).stopped = r.st.stopped := by
  unfold Run.result; split <;> rfl
@[simp] theorem Run.reactions_result (r : Run) (table : Nat) : (r.result table).reactions = r.st.reactions := by
  unfold Run.result; split <;> rfl
@[simp] theorem Run.environment_result (r : Run) (table : Nat) : (r.result table).environment = r.st.environment := by
  unfold Run.result; split <;> rfl
@[simp] theorem Run.outs_result (r : Run) (table : Nat) : (r.result table).outs = r.st.outs := by
  unfold Run.result; split <;> rfl
@[simp] theorem Run.params_result (r : Run) (table : Nat) : (r.result table).params = r.st.params := by
  unfold Run.result; split <;> rfl

/-! ## Mode resolution and exceptions -/

theorem State.resolveMode_some {s : State} {m : Mode} (h : Mode.ofBits (Psr.mode s.cpsr) = some m) :
    s.resolveMode = .ok (s.setBankMode m) := by simp [State.resolveMode, h]

theorem State.resolveMode_strict {s : State} (h : Mode.ofBits (Psr.mode s.cpsr) = none) (hs : s.params.strict = true) :
    s.resolveMode = .error (.invalidMode (Psr.mode s.cpsr)) := by simp [State.resolveMode, h, hs]

theorem State.resolveMode_lax {s : State} (h : Mode.ofBits (Psr.mode s.cpsr) = none) (hs : s.params.strict = false) :
    s.resolveMode = .ok s := by simp [State.resolveMode, h, hs]

/-- What mode resolution can answer: the same state with a bank map that names CPSR.M, or, not STRICT, the same state. -/
theorem State.resolveMode_ok {s t : State} (h : s.resolveMode = .ok t) :
    (∃ m, Mode.ofBits (Psr.mode s.cpsr) = some m ∧ t = s.setBankMode m) ∨ (s.params.strict = false ∧ t = s) := by
  unfold State.resolveMode at h
  split at h
  · rename_i m hm; left; exact ⟨m, hm, by simpa using h.symm⟩
  · split at h
    · cases h
    · rename_i hs; right; exact ⟨by simpa using hs, by simpa using h.symm⟩

/-- A mode resolution that succeeds, as one equation. -/
theorem State.resolveMode_getD {s : State} (h : Mode.ofBits (Psr.mode s.cpsr) ≠ none ∨ s.params.strict = false) :
    s.resolveMode = .ok (s.setBankMode ((Mode.ofBits (Psr.mode s.cpsr)).getD s.bankMode)) := by
  unfold State.resolveMode
  split
  · rename_i m hm; simp [hm]
  · rename_i hm
    rcases h with h | h
    · exact absurd hm h
    · simp only [h, hm, Bool.false_eq_true, if_false, Option.getD_none]; rfl

/-- Exception entry, field by field (R304). -/
theorem State.enterException_cpsr (s : State) (m : Mode) (vec ra : Word) :
    (s.enterException m vec ra).cpsr = (s.cpsr &&& 0xFFFFFF40#32) ||| (m.bits.setWidth 32 ||| 0x80#32) := by
  rw [← entry_cpsr]
  unfold State.enterException
  simp

theorem State.enterException_reg (s : State) (m : Mode) (vec ra : Word) (q : PReg) (hq : q ≠ .pc) :
    (s.enterException m vec ra).reg q = if q = phys m 14#4 then ra else s.reg q := by
  unfold State.enterException
  simp [State.reg_writePc, State.reg_setReg, hq]

theorem State.enterException_thumb (s : State) (m : Mode) (vec ra : Word) :
    (s.enterException m vec ra).thumb = false := by
  unfold State.enterException
  simp [State.thumb_eq]

theorem State.enterException_pc (s : State) (m : Mode) (vec ra : Word) :
    (s.enterException m vec ra).pc = vec &&& 0xFFFFFFFC#32 := by
  unfold State.enterException
  simp [State.alignTarget, State.thumb_eq]

@[simp] theorem State.enterException_bankMode (s : State) (m : Mode) (vec ra : Word) :
    (s.enterException m vec ra).bankMode = m := by
  unfold State.enterException; simp
@[simp] theorem State.enterException_spsrFiq (s : State) (m : Mode) (vec ra : Word) :
    (s.enterException m vec ra).spsrFiq = if m = .fiq then s.cpsr else s.spsrFiq := by
  unfold State.enterException; simp
@[simp] theorem State.enterException_spsrSvc (s : State) (m : Mode) (vec ra : Word) :
    (s.enterException m vec ra).spsrSvc = if m = .svc then s.cpsr else s.spsrSvc := by
  unfold State.enterException; simp
@[simp] theorem State.enterException_spsrAbt (s : State) (m : Mode) (vec ra : Word) :
    (s.enterException m vec ra).spsrAbt = if m = .abt then s.cpsr else s.spsrAbt := by
  unfold State.enterException; simp
@[simp] theorem State.enterException_spsrIrq (s : State) (m : Mode) (vec ra : Word) :
    (s.enterException m vec ra).spsrIrq = if m = .irq then s.cpsr else s.spsrIrq := by
  unfold State.enterException; simp
@[simp] theorem State.enterException_spsrUnd (s : State) (m : Mode) (vec ra : Word) :
    (s.enterException m vec ra).spsrUnd = if m = .und then s.cpsr else s.spsrUnd := by
  unfold State.enterException; simp
@[simp] theorem State.enterException_pending (s : State) (m : Mode) (vec ra : Word) :
    (s.enterException m vec ra).pending = s.pending := by
  unfold State.enterException; simp
@[simp] theorem State.enterException_opcode (s : State) (m : Mode) (vec ra : Word) :
    (s.enterException m vec ra).opcode = s.opcode := by
  unfold State.enterException; simp
@[simp] theorem State.enterException_dead (s : State) (m : Mode) (vec ra : Word) :
    (s.enterException m vec ra).dead = s.dead := by
  unfold State.enterException; simp
@[simp] theorem State.enterException_mem (s : State) (m : Mode) (vec ra : Word) :
    (s.enterException m vec ra).mem = s.mem := by
  unfold State.enterException; simp
@[simp] theorem State.enterException_irqEnable (s : State) (m : Mode) (vec ra : Word) :
    (s.enterException m vec ra).irqEnable = s.irqEnable := by
  unfold State.enterException; simp
@[simp] theorem State.enterException_irqPending (s : State) (m : Mode) (vec ra : Word) :
    (s.enterException m vec ra).irqPending = s.irqPending := by
  unfold State.enterException; simp
@[simp] theorem State.enterException_irqMaster (s : State) (m : Mode) (vec ra : Word) :
    (s.enterException m vec ra).irqMaster = s.irqMaster := by
  unfold State.enterException; simp
@[simp] theorem State.enterException_halted (s : State) (m : Mode) (vec ra : Word) :
    (s.enterException m vec ra).halted = s.halted := by
  unfold State.enterException; simp
@[simp] theorem State.enterException_stopped (s : State) (m : Mode) (vec ra : Word) :
    (s.enterException m vec ra).stopped = s.stopped := by
  unfold State.enterException; simp
@[simp] theorem State.enterException_reactions (s : State) (m : Mode) (vec ra : Word) :
    (s.enterException m vec ra).reactions = s.reactions := by
  unfold State.enterException; simp
@[simp] theorem State.enterException_environment (s : State) (m : Mode) (vec ra : Word) :
    (s.enterException m vec ra).environment = s.environment := by
  unfold State.enterException; simp
@[simp] theorem State.enterException_outs (s : State) (m : Mode) (vec ra : Word) :
    (s.enterException m vec ra).outs = s.outs := by
  unfold State.enterException; simp
@[simp] theorem State.enterException_params (s : State) (m : Mode) (vec ra : Word) :
    (s.enterException m vec ra).params = s.params := by
  unfold State.enterException; simp
@[simp] theorem State.enterException_delay (s : State) (m : Mode) (vec ra : Word) :
    (s.enterException m vec ra).delay = s.delay := by
  unfold State.enterException; simp

end Sys2Proof.Machine
end

