-- ==== Sys2Proof/Laws/Environment.lean ====
section
/-! SUPPORT. The laws of the environment inside a cycle (spec/10_state.md R28, spec/20_memory.md R41, spec/70_reset_and_hazards.md R333): what
a reaction and a list of events leave of a byte of memory, and that memory keeps its canonical form. -/

namespace Sys2Proof.Machine

/-! ## One reaction -/

theorem Memory.wf_writes {m : Memory} (h : m.wf) (ws : List (Word × Byte)) :
    (ws.foldl (fun m c => m.write8 c.1 c.2) m).wf := by
  induction ws generalizing m with
  | nil => exact h
  | cons c ws ih => exact ih (Memory.wf_write8 h _ _)

theorem Memory.read8_writes (m : Memory) (ws : List (Word × Byte)) {a : Word} (h : ∀ c ∈ ws, c.1 ≠ a) :
    Memory.read8 (ws.foldl (fun m c => m.write8 c.1 c.2) m) a = m.read8 a := by
  induction ws generalizing m with
  | nil => rfl
  | cons c ws ih =>
    rw [List.foldl_cons, ih _ fun d hd => h d (List.mem_cons_of_mem _ hd)]
    exact Memory.read8_write8_of_ne _ _ (h c List.mem_cons_self).symm

theorem Environment.wf_react {e : Environment} (h : e.mem.wf) : e.react.mem.wf := by
  unfold Environment.react
  split
  · exact h
  · exact Memory.wf_writes h _

@[simp] theorem Environment.reactions_react (e : Environment) : e.react.reactions = e.reactions.drop 1 := by
  unfold Environment.react
  split
  · rename_i h; simp [h]
  · rename_i h; simp [h]

/-- A byte that no write of the next reaction is at stays. -/
theorem Environment.read8_react (e : Environment) {a : Word} (h : ∀ r ∈ e.reactions.take 1, ∀ c ∈ r.writes, c.1 ≠ a) :
    e.react.mem.read8 a = e.mem.read8 a := by
  unfold Environment.react
  split
  · rfl
  · rename_i r rest hr
    exact Memory.read8_writes _ _ fun c hc => h r (by simp [hr]) c hc

/-- A reaction that writes nothing leaves memory. -/
theorem Environment.mem_react {e : Environment} (h : ∀ r ∈ e.reactions, r.writes = []) : e.react.mem = e.mem := by
  unfold Environment.react
  split
  · rfl
  · rename_i r rest hr
    simp [h r (by simp [hr])]

/-! ## A store -/

theorem Memory.wf_store {m : Memory} (h : m.wf) (z : Size) (a v : Word) : (m.store z a v).wf := by
  cases z
  · exact Memory.wf_write8 h _ _
  · exact Memory.wf_write16 h _ _
  · exact Memory.wf_write32 h _ _

/-- Every byte outside those stored stays. -/
theorem Memory.read8_store (m : Memory) (z : Size) (a v : Word) {b : Word} (h : ∀ k < z.bytes, b ≠ a + BitVec.ofNat 32 k) :
    (m.store z a v).read8 b = m.read8 b := by
  have h0 : b ≠ a := by simpa using h 0 (by cases z <;> decide)
  cases z
  · exact Memory.read8_write8_of_ne _ _ h0
  · exact Memory.read8_write16_of_ne _ _ h0 (h 1 (by decide))
  · exact Memory.read8_write32_of_ne _ _ h0 (h 1 (by decide)) (h 2 (by decide)) (h 3 (by decide))

/-! ## A list of events -/

/-- Whether an event stores a byte at `a`. -/
def OutEvent.stores (c : OutEvent) (a : Word) : Prop :=
  match c with
  | .write z b _ => ∃ k < z.bytes, a = b + BitVec.ofNat 32 k
  | .read _ _ _ => False
  | .wake => False

theorem Environment.wf_answer {e : Environment} (h : e.mem.wf) (c : OutEvent) : (e.answer c).mem.wf := by
  cases c
  · exact Environment.wf_react h
  · exact Environment.wf_react (e := { e with mem := _ }) (Memory.wf_store h _ _ _)
  · exact h

theorem Environment.wf_replay {e : Environment} (h : e.mem.wf) (cs : List OutEvent) : (e.replay cs).mem.wf := by
  induction cs generalizing e with
  | nil => exact h
  | cons c cs ih => exact ih (Environment.wf_answer h c)

/-- A byte that an event does not store, and that no write of the reaction to it is at, stays. -/
theorem Environment.read8_answer (e : Environment) (c : OutEvent) {a : Word} (h : ¬ c.stores a)
    (hr : ∀ r ∈ e.reactions.take 1, ∀ d ∈ r.writes, d.1 ≠ a) : (e.answer c).mem.read8 a = e.mem.read8 a := by
  cases c with
  | read z b v => exact Environment.read8_react e hr
  | wake => rfl
  | write z b v =>
    unfold Environment.answer
    rw [Environment.read8_react _ (by exact hr)]
    exact Memory.read8_store _ _ _ _ fun k hk hc => h ⟨k, hk, hc⟩

/-- An event uses up one reaction at most. -/
theorem Environment.reactions_answer (e : Environment) (c : OutEvent) (n : Nat) :
    ∀ r ∈ (e.answer c).reactions.take n, r ∈ e.reactions.take (n + 1) := by
  intro r hr
  cases c with
  | read z b v =>
    simp only [Environment.answer, Environment.reactions_react] at hr
    rw [List.take_drop, Nat.add_comm] at hr
    exact List.mem_of_mem_drop hr
  | write z b v =>
    simp only [Environment.answer, Environment.reactions_react] at hr
    rw [List.take_drop, Nat.add_comm] at hr
    exact List.mem_of_mem_drop hr
  | wake => exact (List.take_subset_take_left _ (Nat.le_succ n)) hr

/-- A byte that no event stores, and that no reaction to them writes, stays. -/
theorem Environment.read8_replay (e : Environment) (cs : List OutEvent) {a : Word} (h : ∀ c ∈ cs, ¬ c.stores a)
    (hr : ∀ r ∈ e.reactions.take cs.length, ∀ d ∈ r.writes, d.1 ≠ a) : (e.replay cs).mem.read8 a = e.mem.read8 a := by
  induction cs generalizing e with
  | nil => rfl
  | cons c cs ih =>
    have h1 : ((e.answer c).replay cs).mem.read8 a = (e.answer c).mem.read8 a :=
      ih _ (fun d hd => h d (List.mem_cons_of_mem _ hd)) fun r hm => hr r (e.reactions_answer c cs.length r hm)
    refine h1.trans (Environment.read8_answer e c (h c List.mem_cons_self) fun r hm => hr r ?_)
    exact List.take_subset_take_left _ (by simp) hm

/-- What the environment has still to do was there before. -/
theorem Environment.mem_reactions_answer (e : Environment) (c : OutEvent) : ∀ r ∈ (e.answer c).reactions, r ∈ e.reactions := by
  intro r hr
  cases c with
  | read z a v => exact List.mem_of_mem_tail (by simpa [Environment.answer] using hr)
  | write z a v => exact List.mem_of_mem_tail (by simpa [Environment.answer] using hr)
  | wake => exact hr

theorem Environment.mem_reactions_replay (e : Environment) (cs : List OutEvent) : ∀ r ∈ (e.replay cs).reactions, r ∈ e.reactions := by
  induction cs generalizing e with
  | nil => exact fun r h => h
  | cons c cs ih => exact fun r h => e.mem_reactions_answer c r (ih (e.answer c) r h)

theorem Environment.replay_append (e : Environment) (cs ds : List OutEvent) : e.replay (cs ++ ds) = (e.replay cs).replay ds := by
  simp [Environment.replay]

end Sys2Proof.Machine
end

