-- ==== Sys2Proof/Laws/Instr.lean ====
section
/-! SUPPORT. What each operation that meanings share answers, once: the run it makes, or the one stop it can end in. -/

namespace Sys2Proof.Machine

/-! ## Data processing -/

/-- A data-processing operation that writes Rd and is no exception return (R120). -/
theorem dataProcessing_write {op : AluOp} (hw : op.writesRd = true) (setFlags : Bool) {rd : Reg} (a : Word) (b : Shifted)
    (regShift : Bool) (s : State) (h : setFlags = false ∨ rd ≠ 15#4) :
    dataProcessing op setFlags rd a b regShift s =
      .next ((if setFlags
          then ((Run.start s).setX rd (op.eval a b.value b.carry (Psr.c s.cpsr) (Psr.v s.cpsr)).r).map
            (·.setAluFlags (op.eval a b.value b.carry (Psr.c s.cpsr) (Psr.v s.cpsr)))
          else (Run.start s).setX rd (op.eval a b.value b.carry (Psr.c s.cpsr) (Psr.v s.cpsr)).r).result
        (s.aluCycles regShift (rd = 15#4))) := by
  have hn : (setFlags && decide (rd = 15#4)) = false := by rcases h with h | h <;> simp [h]
  simp only [dataProcessing, hw, if_true, hn, Bool.false_eq_true, if_false]
  rfl

/-- A data-processing operation that writes no register (R122). -/
theorem dataProcessing_compare {op : AluOp} (hw : op.writesRd = false) (setFlags : Bool) (rd : Reg) (a : Word) (b : Shifted)
    (regShift : Bool) (s : State) :
    dataProcessing op setFlags rd a b regShift s =
      .next (((Run.start s).map (·.setAluFlags (op.eval a b.value b.carry (Psr.c s.cpsr) (Psr.v s.cpsr)))).result
        (s.aluCycles regShift false)) := by
  simp only [dataProcessing, hw, Bool.false_eq_true, if_false]
  rfl

/-- A data-processing operation that is an exception return (R121). -/
theorem dataProcessing_return {op : AluOp} (hw : op.writesRd = true) (a : Word) (b : Shifted) (regShift : Bool) (s : State) :
    dataProcessing op true 15#4 a b regShift s =
      finishOrFault (((Run.start s).map (·.setAluFlags (op.eval a b.value b.carry (Psr.c s.cpsr) (Psr.v s.cpsr)))).exceptionReturn
        (op.eval a b.value b.carry (Psr.c s.cpsr) (Psr.v s.cpsr)).r) (s.aluCycles regShift true) := by
  simp [dataProcessing, hw]

/-! ## Exception return -/

/-- The status word an exception return restores: the bank's SPSR, or the CPSR in USR and SYS (R21). -/
theorem spsrCur_eq (s : State) : s.spsrCur = if s.bankMode.hasSpsr then s.spsrOf s.bankMode else s.cpsr := by
  unfold State.spsrCur
  cases h : s.bankMode <;> rfl

/-- An exception return that resolves its mode. -/
theorem exceptionReturn_ok (r : Run) (target : Word)
    (h : Mode.ofBits (Psr.mode r.st.spsrCur) ≠ none ∨ r.st.params.strict = false) :
    r.exceptionReturn target =
      .ok ((r.map fun t => (t.setCpsr t.spsrCur).setBankMode ((Mode.ofBits (Psr.mode t.spsrCur)).getD t.bankMode)).jump target) := by
  unfold Run.exceptionReturn State.restoreCpsr
  rw [State.resolveMode_getD (s := r.st.setCpsr r.st.spsrCur) h]
  rfl

/-- An exception return to an invalid mode, when STRICT. -/
theorem exceptionReturn_error (r : Run) (target : Word) (h : Mode.ofBits (Psr.mode r.st.spsrCur) = none)
    (hs : r.st.params.strict = true) :
    r.exceptionReturn target = .error (.invalidMode (Psr.mode r.st.spsrCur)) := by
  unfold Run.exceptionReturn State.restoreCpsr
  rw [State.resolveMode_strict (s := r.st.setCpsr r.st.spsrCur) h hs]
  rfl

/-! ## Multiplies -/

theorem multiplyShort_eq (setFlags : Bool) (rd : Reg) (result : Word) (extra : Nat) (s : State) :
    multiplyShort setFlags rd result extra s =
      .next ((if setFlags then ((Run.start s).setX rd result).map (·.setMulFlags (result.getLsbD 31) (result == 0#32))
        else (Run.start s).setX rd result).result extra) := rfl

theorem multiplyLong_eq (setFlags : Bool) (rdHi rdLo : Reg) (p : BitVec 64) (extra : Nat) (s : State) :
    multiplyLong setFlags rdHi rdLo p extra s =
      .next ((if setFlags
          then (((Run.start s).setX rdLo (p.extractLsb' 0 32)).setX rdHi (p.extractLsb' 32 32)).map
            (·.setMulFlags (p.getLsbD 63) (p == 0#64))
          else ((Run.start s).setX rdLo (p.extractLsb' 0 32)).setX rdHi (p.extractLsb' 32 32)).result extra) := rfl

/-! ## Single transfers -/

@[simp] theorem Run.st_writeBack (r : Run) (rn : Reg) (a : Addressed) :
    (r.writeBack rn a).st = if a.writeBack then r.st.setX rn a.newBase else r.st := by
  unfold Run.writeBack; split <;> simp
@[simp] theorem Run.origin_writeBack (r : Run) (rn : Reg) (a : Addressed) : (r.writeBack rn a).origin = r.origin := by
  unfold Run.writeBack; split <;> simp
@[simp] theorem Run.width_writeBack (r : Run) (rn : Reg) (a : Addressed) : (r.writeBack rn a).width = r.width := by
  unfold Run.writeBack; split <;> simp
@[simp] theorem Run.redirected_writeBack (r : Run) (rn : Reg) (a : Addressed) :
    (r.writeBack rn a).redirected = (r.redirected || (a.writeBack && decide (rn = 15#4))) := by
  unfold Run.writeBack; split <;> simp_all

theorem loadTransfer_eq (rn rd : Reg) (a : Addressed) (m : Access) (s : State) :
    loadTransfer rn rd a m s =
      .next (((((Run.start s).map (·.called m.call)).writeBack rn a).setX rd m.value).result (s.loadCycles (rd = 15#4))) := rfl

theorem loadHalfTransfer_refused {rn rd : Reg} {a : Addressed} {m : Access} {s : State} (h : s.refusesHalf a.addr = true) :
    loadHalfTransfer rn rd a m s = .refused .misalignedHalfword := by simp [loadHalfTransfer, h]

theorem loadHalfTransfer_eq {rn rd : Reg} {a : Addressed} {m : Access} {s : State} (h : s.refusesHalf a.addr = false) :
    loadHalfTransfer rn rd a m s = loadTransfer rn rd a m s := by simp [loadHalfTransfer, h]

theorem storeTransfer_eq (rn : Reg) (a : Addressed) (stored s : State) :
    storeTransfer rn a stored s =
      .next ((({ Run.start s with st := stored } : Run).writeBack rn a).result s.params.cycles.store) := rfl

theorem swapTransfer_eq (rd : Reg) (m : Access) (store : State → State) (s : State) :
    swapTransfer rd m store s =
      .next (((((Run.start s).map (·.called m.call)).map store).setX rd m.value).result s.params.cycles.swap) := rfl

end Sys2Proof.Machine
end

