-- ==== Sys2Proof/Laws/Word.lean ====
section
/-! SUPPORT. The arithmetic of addresses and fields the instruction laws rest on: alignment, low bits, sign extension, products. -/

namespace Sys2Proof.Machine

/-- The two shifts of a rotation. -/
theorem rotate_of_shifts (v : Word) (t : Nat) (h0 : 0 < t) (h1 : t < 32) : (v >>> t) ||| (v <<< (32 - t)) = v.rotateRight t := by
  simp [BitVec.rotateRight_def, Nat.mod_eq_of_lt h1]

/-- A carry as a number. -/
theorem ofBool_toNat (c : Bool) : (BitVec.ofBool c).toNat = c.toNat := by cases c <;> rfl

/-- The amount of a register-specified shift (R102). -/
theorem lowByte_toNat (w : Word) : (w.extractLsb' 0 8).toNat = (w &&& 0xFF#32).toNat := by
  have : (w &&& 0xFF#32) = (w.extractLsb' 0 8).setWidth 32 := by
    apply word_ext; intro i hi
    by_cases h : i < 8
    · interval_cases i <;> simp
    · have : (0xFF#32).getLsbD i = false := by
        have : 8 ≤ i := by omega
        interval_cases i <;> rfl
      simp only [BitVec.getLsbD_and, this, BitVec.getLsbD_setWidth, BitVec.getLsbD_extractLsb', Bool.and_false]
      simp [h]
  rw [this, BitVec.toNat_setWidth, Nat.mod_eq_of_lt]
  have := (w.extractLsb' 0 8).isLt; omega

/-- The low word of a product (R151). -/
theorem ofNat_mul_toNat (a b : Word) : a * b = BitVec.ofNat 32 (a.toNat * b.toNat) := by
  apply BitVec.eq_of_toNat_eq; simp

/-- The low word of a product and a sum (R152). -/
theorem ofNat_mul_add (a b c : Word) : a * b + c = BitVec.ofNat 32 (a.toNat * b.toNat + c.toNat) := by
  apply BitVec.eq_of_toNat_eq; simp

/-- The unsigned product (R153). -/
theorem productUnsigned_eq (a b : Word) : productUnsigned a b = BitVec.ofInt 64 ((a.toNat : Int) * (b.toNat : Int)) := by
  apply BitVec.eq_of_toNat_eq
  rw [productUnsigned, ← Int.natCast_mul, BitVec.ofInt_natCast]
  simp only [BitVec.toNat_mul, BitVec.toNat_setWidth, BitVec.toNat_ofNat]
  have := a.isLt; have := b.isLt
  rw [Nat.mod_eq_of_lt (a := a.toNat) (by omega), Nat.mod_eq_of_lt (a := b.toNat) (by omega)]

/-- The signed product (R155). -/
theorem productSigned_eq (a b : Word) : productSigned a b = BitVec.ofInt 64 (a.toInt * b.toInt) := by
  rw [productSigned, BitVec.ofInt_mul]
  congr 1

/-- A 64-bit accumulation (R154, R156). -/
theorem ofInt_add_toNat (x : Int) (b : BitVec 64) : BitVec.ofInt 64 x + b = BitVec.ofInt 64 (x + (b.toNat : Int)) := by
  rw [BitVec.ofInt_add]; congr 1; rw [BitVec.ofInt_natCast]; simp

/-- A field extended with zeros, as a number. -/
theorem setWidth_eq_ofNat (n : Nat) (b : BitVec n) (h : n ≤ 32) : b.setWidth 32 = BitVec.ofNat 32 b.toNat := by
  apply BitVec.eq_of_toNat_eq; simp

/-- The rotation of a misaligned word load (R44). -/
theorem lowTwo_toNat (w : Word) : (w.extractLsb' 0 2).toNat = (w &&& 3#32).toNat := by
  have : (w &&& 3#32) = (w.extractLsb' 0 2).setWidth 32 := by
    apply word_ext; intro i hi
    by_cases h : i < 2
    · interval_cases i <;> simp
    · have : (3#32).getLsbD i = false := by
        have : 2 ≤ i := by omega
        interval_cases i <;> rfl
      simp only [BitVec.getLsbD_and, this, BitVec.getLsbD_setWidth, BitVec.getLsbD_extractLsb', Bool.and_false]
      simp [h]
  rw [this, BitVec.toNat_setWidth, Nat.mod_eq_of_lt]
  have := (w.extractLsb' 0 2).isLt; omega

/-- An even address is its own halfword address. -/
theorem alignHalf_of_even (a : Word) (h : a.getLsbD 0 = false) : a &&& 0xFFFFFFFE#32 = a := by
  apply word_ext; intro i hi
  by_cases h0 : i = 0
  · subst h0; simp only [BitVec.getLsbD_and, h]; rfl
  · have : (0xFFFFFFFE#32).getLsbD i = true := by interval_cases i <;> simp_all
    simp only [BitVec.getLsbD_and, this, Bool.and_true]

/-- An address outside the bytes from another on is none of them. -/
theorem ne_of_distance {a b : Word} {n : Nat} (h : n ≤ (b - a).toNat) {k : Nat} (hk : k < n) (h2 : n ≤ 4) : b ≠ a + BitVec.ofNat 32 k := by
  rintro rfl
  have : a + BitVec.ofNat 32 k - a = BitVec.ofNat 32 k := by rw [BitVec.add_comm, BitVec.add_sub_cancel]
  rw [this, BitVec.toNat_ofNat, Nat.mod_eq_of_lt (by omega)] at h
  omega

/-- The low byte of a register. -/
theorem byte_part (v : Word) : (v.extractLsb' 0 8).setWidth 32 = v &&& 0xFF#32 := by
  apply word_ext; intro i hi
  by_cases h : i < 8
  · interval_cases i <;> simp
  · have : (0xFF#32).getLsbD i = false := by
      have : 8 ≤ i := by omega
      interval_cases i <;> rfl
    simp only [BitVec.getLsbD_and, this, BitVec.getLsbD_setWidth, BitVec.getLsbD_extractLsb', Bool.and_false]
    simp [h]

/-- The low halfword of a register. -/
theorem half_part (v : Word) : (v.extractLsb' 0 16).setWidth 32 = v &&& 0xFFFF#32 := by
  apply word_ext; intro i hi
  by_cases h : i < 16
  · interval_cases i <;> simp
  · have : (0xFFFF#32).getLsbD i = false := by
      have : 16 ≤ i := by omega
      interval_cases i <;> rfl
    simp only [BitVec.getLsbD_and, this, BitVec.getLsbD_setWidth, BitVec.getLsbD_extractLsb', Bool.and_false]
    simp [h]

/-- The word address as a number (R43). -/
theorem alignWord_toNat (a : Word) : (alignWord a).toNat = a.toNat / 4 * 4 := by
  have h : alignWord a = (a >>> 2) <<< 2 := by
    unfold alignWord
    apply word_ext; intro i hi
    simp only [BitVec.getLsbD_and, BitVec.getLsbD_shiftLeft, BitVec.getLsbD_ushiftRight]
    interval_cases i <;> simp
  rw [h]
  simp only [BitVec.toNat_shiftLeft, BitVec.toNat_ushiftRight, Nat.shiftRight_eq_div_pow, Nat.shiftLeft_eq]
  have := a.isLt
  omega

/-- Word addresses step with the words. -/
theorem alignWord_add (a : Word) (k : Nat) : alignWord (a + BitVec.ofNat 32 (4 * k)) = alignWord a + BitVec.ofNat 32 (4 * k) := by
  apply BitVec.eq_of_toNat_eq
  simp only [alignWord_toNat, BitVec.toNat_add, BitVec.toNat_ofNat]
  have := a.isLt
  omega

/-- Bytes of different words differ. -/
theorem ne_of_alignWord_ne (a b : Word) : alignWord a ≠ alignWord b → ∀ j < 4, a ≠ alignWord b + BitVec.ofNat 32 j := by
  intro h j hj e
  apply h
  apply BitVec.eq_of_toNat_eq
  subst e
  simp only [alignWord_toNat, BitVec.toNat_add, BitVec.toNat_ofNat]
  have := b.isLt
  omega

/-- The address of the word after the next `k`. -/
theorem next_word_address (addr : Word) (k : Nat) : addr + 4#32 + BitVec.ofNat 32 (4 * k) = addr + BitVec.ofNat 32 (4 * (k + 1)) := by
  rw [BitVec.add_assoc]; congr 1
  apply BitVec.eq_of_toNat_eq; simp [BitVec.toNat_add]; omega

/-- A byte of an aligned word belongs to it. -/
theorem alignWord_byte (a : Word) (j : Nat) (hj : j < 4) : alignWord (alignWord a + BitVec.ofNat 32 j) = alignWord a := by
  apply BitVec.eq_of_toNat_eq
  simp only [alignWord_toNat, BitVec.toNat_add, BitVec.toNat_ofNat]
  have := a.isLt
  omega

/-- Words of one block are different words. -/
theorem alignWord_ne (a : Word) (k : Nat) (hk : k < 2^30) (h0 : k ≠ 0) : alignWord a ≠ alignWord (a + BitVec.ofNat 32 (4 * k)) := by
  intro e
  have := congrArg BitVec.toNat e
  simp only [alignWord_toNat, BitVec.toNat_add, BitVec.toNat_ofNat] at this
  have := a.isLt
  omega

/-- A signed offset shifted left, as a number (R65, R190). -/
theorem signExtend_shiftLeft (n k : Nat) (off : BitVec n) (hn : n ≤ 32) : off.signExtend 32 <<< k = BitVec.ofInt 32 (2 ^ k * off.toInt) := by
  rw [BitVec.shiftLeft_eq_mul_twoPow]
  apply BitVec.eq_of_toInt_eq
  rw [BitVec.toInt_mul, BitVec.toInt_ofInt]
  have h1 : (off.signExtend 32).toInt = off.toInt := BitVec.toInt_signExtend_of_le hn
  rw [h1]
  have : (BitVec.twoPow 32 k) = BitVec.ofInt 32 (2 ^ k) := by
    apply BitVec.eq_of_toNat_eq
    rw [BitVec.toNat_twoPow, BitVec.toNat_ofInt]
    have : ((2:Int)^k) = ((2^k : Nat) : Int) := by norm_cast
    rw [this]; norm_cast
  rw [this, BitVec.toInt_ofInt]
  rw [Int.mul_bmod_bmod, Int.mul_comm]

/-- Aligned to 4 (R90). -/
theorem aligned_four (a : Word) : a &&& 0xFFFFFFFC#32 = a ↔ a.toNat % 4 = 0 := by
  have h : a &&& 0xFFFFFFFC#32 = (a >>> 2) <<< 2 := by
    apply word_ext; intro i hi
    simp only [BitVec.getLsbD_and, BitVec.getLsbD_shiftLeft, BitVec.getLsbD_ushiftRight]
    interval_cases i <;> simp
  rw [h, ← BitVec.toNat_inj]
  simp only [BitVec.toNat_shiftLeft, BitVec.toNat_ushiftRight, Nat.shiftRight_eq_div_pow, Nat.shiftLeft_eq]
  have := a.isLt
  omega

/-- Aligned to 2 (R90). -/
theorem aligned_two (a : Word) : a &&& 0xFFFFFFFE#32 = a ↔ a.toNat % 2 = 0 := by
  have h : a &&& 0xFFFFFFFE#32 = (a >>> 1) <<< 1 := by
    apply word_ext; intro i hi
    simp only [BitVec.getLsbD_and, BitVec.getLsbD_shiftLeft, BitVec.getLsbD_ushiftRight]
    interval_cases i <;> simp
  rw [h, ← BitVec.toNat_inj]
  simp only [BitVec.toNat_shiftLeft, BitVec.toNat_ushiftRight, Nat.shiftRight_eq_div_pow, Nat.shiftLeft_eq]
  have := a.isLt
  omega

/-- A multiple of 4 stays one modulo 2^32. -/
theorem ofInt_four_mul_mod (x : Int) : (BitVec.ofInt 32 (4 * x)).toNat % 4 = 0 := by rw [BitVec.toNat_ofInt]; omega

/-- A multiple of 2 stays one modulo 2^32. -/
theorem ofInt_two_mul_mod (x : Int) : (BitVec.ofInt 32 (2 * x)).toNat % 2 = 0 := by rw [BitVec.toNat_ofInt]; omega

end Sys2Proof.Machine
end

