-- ==== Sys2Proof/Laws/Transfer.lean ====
section
/-! SUPPORT. What the single transfers answer, once for all of them (spec/44_arm_load_store.md, spec/20_memory.md R43 to R45). -/

namespace Sys2Proof.Machine

/-- The address calculation of the single transfers (R160, R170). -/
theorem indexed_eq (p u w : Bool) (base off : Word) : indexed p u w base off =
   ⟨if p then (if u then base + off else base - off) else base, !p || w, if u then base + off else base - off⟩ := by
  cases p <;> cases w <;> rfl

/-- What an environment that a list of events left says of the byte frame: a byte none of them stores at reads as before, unless a
reaction to them wrote it. -/
theorem memKept_of_replay {s t : State} {cs : List OutEvent} (h : t.environment = s.environment.replay cs) {a : Word}
    (hs : ∀ c ∈ cs, ¬ c.stores a) (hu : s.Untouched cs.length a) : t.mem.read8 a = s.mem.read8 a := by
  rw [State.mem_eq, h]; exact Environment.read8_replay _ _ hs hu

/-- What a single load answers. -/
theorem loadTransfer_spec (s : State) (rn rd : Reg) (a : Addressed) (m : Access) (w : Word) (hw : s.width = w) (hm : ∀ b, ¬ m.call.stores b) :
    ∃ t, loadTransfer rn rd a m s = .next t ∧ (rd ≠ 15#4 → t.x rd = m.value) ∧ (a.writeBack = true → rn ≠ 15#4 → rn ≠ rd → t.x rn = a.newBase) ∧
        t.pc = (if rd = 15#4 then s.alignTarget m.value
          else if a.writeBack ∧ rn = 15#4 then s.alignTarget a.newBase else s.pc + w) ∧
        RegsKept s t (phys s.bankMode rd :: if a.writeBack then [phys s.bankMode rn] else []) ∧ t.cpsr = s.cpsr ∧
        MemKeptBut s t 1 ∧ CoreKept s t ∧ Calls s t [m.call] ∧
        t.delay = s.extraCycles (a.writeBack ∧ rn = 15#4 ∨ rd = 15#4) (if rd = 15#4 then s.params.cycles.loadPc else s.params.cycles.load) := by
  rw [loadTransfer_eq]
  have he : ∀ n, (((((Run.start s).map (·.called m.call)).writeBack rn a).setX rd m.value).result n).environment = s.environment.replay [m.call] := by
    intro n; cases hb : a.writeBack <;> simp [hb]
  refine ⟨_, rfl, fun h => ?_, fun h h' h'' => ?_, ?_, ?_, ?_, ?_, ?_, ⟨?_, he _⟩, ?_⟩
  · have hp := phys_ne_pc s.bankMode h
    cases hb : a.writeBack <;> simp [State.x_eq, Run.reg_result, hp, State.reg_setX, h, hb]
  · have hp := phys_ne_pc s.bankMode h'
    have hp' : phys s.bankMode rn ≠ phys s.bankMode rd := fun e => h'' (phys_injective _ e)
    simp [State.x_eq, Run.reg_result, hp, State.reg_setX, h, h', hp']
  · cases hb : a.writeBack <;> by_cases h : rd = 15#4 <;> by_cases h' : rn = 15#4 <;> simp [h, h', hw, hb, alignTarget_eq] <;> rfl
  · intro p hpc hm; cases hb : a.writeBack <;> simp_all [Run.reg_result, State.reg_setX]
  · cases hb : a.writeBack <;> simp [hb]
  · exact fun b hu => memKept_of_replay (he _) (by simpa using hm b) hu
  · cases hb : a.writeBack <;> simp [hb, CoreKept, SpsrsKept, StagingKept]
  · cases hb : a.writeBack <;> simp [hb]
  · cases hb : a.writeBack <;> simp [State.loadCycles, hb]

/-- The access of a load of a kind. -/
def LoadKind.access (s : State) (k : LoadKind) (a : Word) : Access := match k with
  | .word => s.loadWord a | .byte => s.loadByte a | .signedByte => s.loadSignedByte a | .half => s.loadHalf a | .signedHalf => s.loadSignedHalf a

/-- What a load of a kind gives and the call it makes, from the bytes of memory. -/
theorem LoadKind.access_eq (s : State) (k : LoadKind) (a : Word) : LoadKind.access s k a = ⟨k.value s.mem a, k.call s.mem a⟩ := by
  cases k
  · simp only [LoadKind.access, State.loadWord, LoadKind.value, LoadKind.call, lowTwo_toNat]; rfl
  · rfl
  · rfl
  · simp only [LoadKind.access, State.loadHalf, LoadKind.value, LoadKind.call]
    cases h : a.getLsbD 0
    · have := alignHalf_of_even a h
      simp [alignHalf, this]
    · simp [alignHalf]
  · simp only [LoadKind.access, State.loadSignedHalf, LoadKind.value, LoadKind.call]
    cases h : a.getLsbD 0
    · simp
    · simp [State.loadSignedByte]

/-- A load's call stores nothing. -/
theorem LoadKind.call_stores (k : LoadKind) (m : Memory) (a b : Word) : ¬ (k.call m a).stores b := by
  cases k <;> simp only [LoadKind.call]
  all_goals (try split) <;> exact id

/-- The call a store of a width makes (R43, R48). -/
def Size.call (z : Size) (a v : Word) : OutEvent := .write z (z.storeAddress a) (z.part v)

/-- The store of a width. -/
def Size.stored (s : State) (z : Size) (a v : Word) : State := match z with
  | .word => s.storeWord a v | .half => s.storeHalf a v | .byte => s.storeByte a v

/-- A store of a width is one call. -/
theorem Size.stored_eq (s : State) (z : Size) (a v : Word) : Size.stored s z a v = s.called (z.call a v) := by
  cases z
  · simp only [Size.stored, Size.call, Size.storeAddress, Size.part, State.storeByte_eq, byte_part]
  · simp only [Size.stored, Size.call, Size.storeAddress, Size.part, State.storeHalf_eq, half_part, alignHalf]
  · rfl

/-- A byte outside a store's width is none that its call stores. -/
theorem Size.not_stores {z : Size} {a v b : Word} (h : z.bytes ≤ (b - z.storeAddress a).toNat) : ¬ (z.call a v).stores b := by
  rintro ⟨k, hk, e⟩
  exact ne_of_distance h hk (by cases z <;> decide) e

/-- What reads back depends on the bytes of the width only. -/
theorem Size.readBack_congr {z : Size} {m m' : Memory} {a : Word}
    (h : ∀ k < z.bytes, m.read8 (a + BitVec.ofNat 32 k) = m'.read8 (a + BitVec.ofNat 32 k)) : z.readBack m a = z.readBack m' a := by
  have h0 := h 0 (by cases z <;> decide)
  rw [BitVec.add_zero] at h0
  cases z
  · simp only [Size.readBack, h0]
  · simp only [Size.readBack, Memory.read16, h0, h 1 (by decide)]
  · simp only [Size.readBack, Memory.read32, h0, h 1 (by decide), h 2 (by decide), h 3 (by decide)]

/-- A store's bytes read back. -/
theorem Size.readBack_store {m : Memory} (h : m.wf) (z : Size) (a v : Word) : z.readBack (m.store z a v) a = z.part v := by
  cases z
  · simp [Size.readBack, Memory.store, Size.part, Memory.read8_write8_self h, byte_part]
  · simp [Size.readBack, Memory.store, Size.part, Memory.read16_write16_self h, half_part]
  · simp [Size.readBack, Memory.store, Size.part, Memory.read32_write32_self h]

/-- The part of a part is the part. -/
theorem Size.part_part (z : Size) (v : Word) : z.part (z.part v) = z.part v := by
  cases z <;> simp [Size.part, BitVec.and_assoc]

/-- A store's bytes read back after the events that follow it, where none of them stores at its bytes and no reaction wrote them. -/
theorem Size.readBack_replay {e : Environment} (h : e.mem.wf) (z : Size) (a v : Word) (post : List OutEvent)
    (hp : ∀ k < z.bytes, ∀ c ∈ post, ¬ c.stores (a + BitVec.ofNat 32 k))
    (hu : ∀ k < z.bytes, ∀ r ∈ e.reactions.take (post.length + 1), ∀ d ∈ r.writes, d.1 ≠ a + BitVec.ofNat 32 k) :
    z.readBack (e.replay (.write z a v :: post)).mem a = z.part v := by
  rw [← Size.readBack_store h z a v]
  refine Size.readBack_congr fun k hk => ?_
  have h1 : (e.replay (.write z a v :: post)).mem.read8 (a + BitVec.ofNat 32 k) = (e.answer (.write z a v)).mem.read8 (a + BitVec.ofNat 32 k) :=
    Environment.read8_replay _ _ (hp k hk) fun r hm => hu k hk r (e.reactions_answer _ _ r hm)
  rw [h1]
  exact Environment.read8_react _ fun r hm => hu k hk r (List.take_subset_take_left _ (by simp) hm)

/-- What a single store answers. -/
theorem storeTransfer_spec (s : State) (rn : Reg) (a : Addressed) (z : Size) (ad v : Word) (hwf : s.mem.wf) (w : Word) (hw : s.width = w) :
    ∃ t, storeTransfer rn a (Size.stored s z ad v) s = .next t ∧
      ((∀ k < z.bytes, s.Untouched 1 (z.storeAddress ad + BitVec.ofNat 32 k)) → z.readBack t.mem (z.storeAddress ad) = z.part v) ∧
        MemKeptOutside s t (z.storeAddress ad) z.bytes 1 ∧
        (a.writeBack = true → rn ≠ 15#4 → t.x rn = a.newBase) ∧
        t.pc = (if a.writeBack ∧ rn = 15#4 then s.alignTarget a.newBase else s.pc + w) ∧
        RegsKept s t (if a.writeBack then [phys s.bankMode rn] else []) ∧ t.cpsr = s.cpsr ∧ CoreKept s t ∧
        Calls s t [.write z (z.storeAddress ad) (z.part v)] ∧ t.delay = s.extraCycles (a.writeBack ∧ rn = 15#4) s.params.cycles.store := by
  rw [storeTransfer_eq, Size.stored_eq]
  have he : ∀ n, ((({ Run.start s with st := s.called (z.call ad v) } : Run).writeBack rn a).result n).environment = s.environment.replay [z.call ad v] := by
    intro n; cases hb : a.writeBack <;> simp [hb]
  refine ⟨_, rfl, fun hu => ?_, fun b hb hu => ?_, fun h h' => ?_, ?_, ?_, ?_, ?_, ⟨?_, he _⟩, ?_⟩
  · rw [State.mem_eq, he, ← Size.part_part]
    exact Size.readBack_replay hwf z _ _ [] (by simp) hu
  · exact memKept_of_replay (he _) (by simpa using Size.not_stores hb) hu
  · have hp := phys_ne_pc s.bankMode h'
    simp [State.x_eq, Run.reg_result, hp, State.reg_setX, h, h']
  · cases hb : a.writeBack <;> by_cases h' : rn = 15#4 <;> simp [h', hb, Run.width, hw, alignTarget_eq] <;> rfl
  · intro p hpc hm; cases hb : a.writeBack <;> simp_all [Run.reg_result, State.reg_setX]
  · cases hb : a.writeBack <;> simp [hb]
  · cases hb : a.writeBack <;> simp [hb, CoreKept, SpsrsKept, StagingKept]
  · cases hb : a.writeBack <;> simp [hb, Size.call]
  · cases hb : a.writeBack <;> simp [hb]

/-- The value an ARM store moves (R88). -/
theorem storeValue_arm {s : State} (ht : s.thumb = false) (rd : Reg) : s.storeValue rd = s.armStored rd := by
  simp [State.storeValue, State.storedPc, ht, State.armStored]

end Sys2Proof.Machine
end

