-- ==== Sys2Proof/Laws/Block.lean ====
section
/-! SUPPORT. What the block transfers answer (spec/45_arm_block_transfer.md R180 to R187): the store loop as one list of calls, the load loop register by register. -/

namespace Sys2Proof.Machine

/-- What the core keeps, it keeps over two steps of an instruction. -/
theorem coreKept_trans {a b c : State} (h : CoreKept a b) (h' : CoreKept b c) : CoreKept a c := by
  obtain ⟨⟨a1, a2, a3, a4, a5⟩, a6, b1, b2, b3, b4⟩ := h
  obtain ⟨⟨c1, c2, c3, c4, c5⟩, c6, d1, d2, d3, d4⟩ := h'
  exact ⟨⟨c1.trans a1, c2.trans a2, c3.trans a3, c4.trans a4, c5.trans a5⟩, c6.trans a6, d1.trans b1, d2.trans b2, d3.trans b3, d4.trans b4⟩

/-- Several calls one after the other. -/
theorem foldl_called (s : State) (cs : List OutEvent) :
    cs.foldl State.called s = ({ s with outs := s.outs ++ cs } : State).setEnvironment (s.environment.replay cs) := by
  induction cs generalizing s with
  | nil => simp only [List.foldl_nil, List.append_nil]; rfl
  | cons c cs ih => rw [List.foldl_cons, ih, State.outs_called, State.environment_called, List.append_assoc]; rfl

/-- A word store touches the bytes of its word only. -/
theorem stores_word {a b v : Word} (h : (OutEvent.write .word (alignWord b) v).stores a) : alignWord a = alignWord b := by
  obtain ⟨k, hk, rfl⟩ := h
  exact alignWord_byte _ _ hk

/-- The reactions left after some events are among the first. -/
theorem reactions_replay (e : Environment) (cs : List OutEvent) (n : Nat) :
    ∀ r ∈ (e.replay cs).reactions.take n, r ∈ e.reactions.take (n + cs.length) := by
  induction cs generalizing e with
  | nil => exact fun r h => h
  | cons c cs ih => exact fun r h => e.reactions_answer c _ r (ih (e.answer c) r h)

/-- The calls of a block store from an address on, with the value each register stores. -/
abbrev storeCalls (addr : Word) (value : Nat → Reg → Word) (regs : List Reg) : List OutEvent :=
  regs.mapIdx fun k i => .write .word (alignWord (addr + BitVec.ofNat 32 (4 * k))) (value k i)

/-- Each word of a block store reads back, where no reaction wrote one of its bytes. -/
theorem storeCalls_in {e : Environment} (hw : e.mem.wf) (addr : Word) (value : Nat → Reg → Word) (regs : List Reg)
    (hl : regs.length ≤ 16) (k : Nat) (hk : k < regs.length)
    (hu : ∀ j < 4, ∀ r ∈ e.reactions.take regs.length, ∀ d ∈ r.writes,
      d.1 ≠ alignWord (addr + BitVec.ofNat 32 (4 * k)) + BitVec.ofNat 32 j) :
    (e.replay (storeCalls addr value regs)).mem.read32 (alignWord (addr + BitVec.ofNat 32 (4 * k))) = value k regs[k] := by
  have hk' : k < (storeCalls addr value regs).length := by simpa using hk
  have hcs : storeCalls addr value regs = (storeCalls addr value regs).take k ++
      .write .word (alignWord (addr + BitVec.ofNat 32 (4 * k))) (value k regs[k]) :: (storeCalls addr value regs).drop (k + 1) := by
    conv_lhs => rw [← List.take_append_drop k (storeCalls addr value regs), List.drop_eq_getElem_cons hk']
    simp [storeCalls]
  rw [hcs, Environment.replay_append]
  refine Size.readBack_replay (z := .word) (Environment.wf_replay hw _) _ _ _ (fun j hj c hc hs => ?_) (fun j hj r hr => ?_)
  · obtain ⟨n, hn, rfl⟩ := List.mem_iff_getElem.mp hc
    simp only [List.length_drop, List.length_mapIdx] at hn
    simp only [List.getElem_drop, List.getElem_mapIdx] at hs
    have := stores_word hs
    rw [alignWord_byte _ _ hj, show 4 * (k + 1 + n) = 4 * k + 4 * (n + 1) by omega, BitVec.ofNat_add, ← BitVec.add_assoc] at this
    exact absurd this (alignWord_ne _ _ (by omega) (by omega))
  · refine hu j hj r (List.take_subset_take_left _ ?_ (reactions_replay _ _ _ r hr))
    simp only [List.length_drop, List.length_take, List.length_mapIdx]
    omega

/-- A byte outside the words of a block store is none that its calls store. -/
theorem storeCalls_out (addr : Word) (value : Nat → Reg → Word) (regs : List Reg) {a : Word}
    (h : ∀ k < regs.length, alignWord a ≠ alignWord (addr + BitVec.ofNat 32 (4 * k))) :
    ∀ c ∈ storeCalls addr value regs, ¬ c.stores a := by
  intro c hc hs
  obtain ⟨n, hn, rfl⟩ := List.mem_iff_getElem.mp hc
  simp only [List.getElem_mapIdx] at hs
  exact h n (by simpa using hn) (stores_word hs)

/-- The calls of a block load store nothing. -/
theorem readCalls_out (regs : List Reg) (value : Nat → Word × Word) (a : Word) :
    ∀ c ∈ regs.mapIdx fun k _ => OutEvent.read .word (value k).1 (value k).2, ¬ c.stores a := by
  intro c hc hs
  obtain ⟨n, hn, rfl⟩ := List.mem_iff_getElem.mp hc
  simp only [List.getElem_mapIdx] at hs
  exact hs

/-- The store loop after the write-back (R183). -/
theorem blockStore_false (b : Block) (regs : List Reg) (addr : Word) (r : Run) :
    blockStore b regs addr false r =
      { r with st := (storeCalls addr (fun _ => r.st.blockValue b) regs).foldl State.called r.st } := by
  induction regs generalizing addr r with
  | nil => rfl
  | cons i rest ih =>
    rw [blockStore, ih]
    simp only [Run.blockWriteBack, Bool.false_and, Bool.false_eq_true, if_false, Run.map, storeCalls, List.mapIdx_cons,
      List.foldl_cons, Nat.mul_zero, BitVec.add_zero, next_word_address]
    rfl

/-- The registers a block transfer walks. -/
theorem BlockFields.listed_eq (f : BlockFields) (s : State) : listedRegs (effectiveList s.params.emptyRlist f.list).1 = f.regs s := by
  unfold effectiveList BlockFields.regs
  split
  · cases s.params.emptyRlist <;> decide
  · rfl

/-- The words the base moves by (R181, R182). -/
theorem BlockFields.count_eq (f : BlockFields) (s : State) : (effectiveList s.params.emptyRlist f.list).2 = f.count s := by
  unfold effectiveList BlockFields.count
  split
  · cases s.params.emptyRlist <;> rfl
  · rename_i h; simp [BlockFields.regs, h, listedRegs]

/-- Whether r15 is transferred. -/
theorem BlockFields.hasPc_eq (f : BlockFields) (s : State) : (effectiveList s.params.emptyRlist f.list).1.getLsbD 15 = decide (15#4 ∈ f.regs s) := by
  rw [← BlockFields.listed_eq]
  generalize (effectiveList s.params.emptyRlist f.list).1 = l
  simp [listedRegs, allRegs]

/-- The block transfer its fields name. -/
theorem BlockFields.block_eq (f : BlockFields) (load : Bool) (s : State) : s.block load f.p f.u f.sBit f.w f.rn f.list =
   { rn := f.rn, sBit := f.sBit, w := f.w, regs := f.regs s, start := (f.range s).start, final := (f.range s).final, userBank := f.sBit && !(load && decide (15#4 ∈ f.regs s)), hasPc := decide (15#4 ∈ f.regs s) } := by
  simp only [State.block, BlockFields.listed_eq, BlockFields.count_eq, BlockFields.hasPc_eq, BlockFields.range]

/-- Some register is always transferred (R182). -/
theorem BlockFields.regs_ne_nil (f : BlockFields) (s : State) : f.regs s ≠ [] := by
  unfold BlockFields.regs
  split
  · cases s.params.emptyRlist <;> decide
  · rename_i h
    intro e
    apply h
    apply BitVec.eq_of_getLsbD_eq; intro i hi
    have hi' : BitVec.ofNat 4 i ∈ allRegs := by interval_cases i <;> decide
    have := List.filter_eq_nil_iff.mp e _ hi'
    have hn : (BitVec.ofNat 4 i).toNat = i := by simp; omega
    rw [hn] at this; simpa using this

/-- At most sixteen are. -/
theorem BlockFields.regs_length (f : BlockFields) (s : State) : (f.regs s).length ≤ 16 := by
  unfold BlockFields.regs
  split
  · cases s.params.emptyRlist <;> decide
  · exact List.length_filter_le _ _

/-- No register is transferred twice. -/
theorem BlockFields.regs_nodup (f : BlockFields) (s : State) : (f.regs s).Nodup := by
  unfold BlockFields.regs
  split
  · cases s.params.emptyRlist <;> decide
  · exact List.Nodup.filter _ (by decide)

/-- r15 is the last register of a list. -/
theorem BlockFields.regs_last (f : BlockFields) (s : State) (h : 15#4 ∈ f.regs s) : ∃ init, f.regs s = init ++ [15#4] ∧ 15#4 ∉ init := by
  revert h
  unfold BlockFields.regs
  split
  · cases s.params.emptyRlist
    · intro _; exact ⟨allRegs.dropLast, by decide, by decide⟩
    · intro _; exact ⟨[], rfl, by decide⟩
  · intro h
    have ha : allRegs = allRegs.dropLast ++ [15#4] := by decide
    rw [ha, List.filter_append]
    have h15 := (List.mem_filter.mp h).2
    refine ⟨allRegs.dropLast.filter (fun i => f.list.getLsbD i.toNat), ?_, ?_⟩
    · congr 1
      rw [List.filter_cons, if_pos h15]; rfl
    · intro hc; exact absurd (List.mem_filter.mp hc).1 (by decide)

/-- What a block store answers (R183, R184, R186). -/
theorem storeMultiple_spec (f : BlockFields) (s : State) (hwf : s.mem.wf) (hpc : s.thumb = true → f.rn ≠ 15#4) :
    ∃ t, storeMultiple f.p f.u f.sBit f.w f.rn f.list s = .next t ∧
      (∀ (k : Nat) (h : k < (f.regs s).length),
        (∀ j < 4, s.Untouched (f.regs s).length (f.wordAddress s k + BitVec.ofNat 32 j)) →
          t.mem.read32 (f.wordAddress s k) = f.stored s k (f.regs s)[k]) ∧
      (∀ a : Word, (∀ k, k < (f.regs s).length → a &&& 0xFFFFFFFC#32 ≠ f.wordAddress s k) →
        s.Untouched (f.regs s).length a → t.mem.read8 a = s.mem.read8 a) ∧
      (f.w = true → f.rn ≠ 15#4 → t.x f.rn = (f.range s).final) ∧
      RegsKept s t (if f.w then [phys s.bankMode f.rn] else []) ∧
      t.pc = (if f.w ∧ f.rn = 15#4 then (f.range s).final &&& 0xFFFFFFFC#32
        else s.pc + if s.thumb then 2#32 else 4#32) ∧
      t.cpsr = s.cpsr ∧ CoreKept s t ∧
      Calls s t ((f.regs s).mapIdx fun k r => .write .word (f.wordAddress s k) (f.stored s k r)) ∧
      t.delay = s.extraCycles (f.w ∧ f.rn = 15#4) s.params.cycles.store := by
  have hlen := BlockFields.regs_length f s
  have hne := BlockFields.regs_ne_nil f s
  unfold storeMultiple
  rw [BlockFields.block_eq]
  simp only [Bool.false_and, Bool.not_false, Bool.and_true]
  obtain ⟨i, rest, hr⟩ : ∃ i rest, f.regs s = i :: rest := by
    cases h : f.regs s with
    | nil => exact absurd h hne
    | cons i rest => exact ⟨i, rest, rfl⟩
  rw [hr] at hlen ⊢
  rw [blockStore, blockStore_false]
  set b : Block := { rn := f.rn, sBit := f.sBit, w := f.w, regs := i :: rest, start := (f.range s).start, final := (f.range s).final, userBank := f.sBit, hasPc := decide (15#4 ∈ i :: rest) } with hb
  have hfirst : s.blockValue b i = f.stored s 0 i := by
    simp only [State.blockValue, BlockFields.stored, if_true, State.storedPc, hb]
  set s0 : State := s.called (.write .word (alignWord (f.range s).start) (f.stored s 0 i)) with hs0
  set r0 : Run := (Run.map (Run.start s) fun t => t.storeWord (f.range s).start (t.blockValue b i)).blockWriteBack b true with hr0
  have hst : r0.st = if f.w then s0.setX f.rn (f.range s).final else s0 := by
    rw [hr0, hs0, ← hfirst]; simp only [Run.blockWriteBack, Bool.true_and]
    have : b.w = f.w := rfl
    rw [this]
    cases f.w
    · rfl
    · simp only [if_true, Run.st_setX]; rfl
  have hrest : ∀ k j, r0.st.blockValue b j = f.stored s (k + 1) j := by
    intro k j
    simp only [State.blockValue, BlockFields.stored, Nat.succ_ne_zero, if_false, BlockFields.based, State.storedPc, hst, hb]
    cases f.w
    · rfl
    · by_cases h15 : f.rn = 15#4
      · rw [h15]; rfl
      · simp only [if_true, State.setX_of_ne _ _ h15]; rfl
  have hred : r0.redirected = (f.w && decide (f.rn = 15#4)) := by
    rw [hr0]; simp only [Run.blockWriteBack, Bool.true_and]
    have : b.w = f.w := rfl
    rw [this]
    cases f.w <;> simp [hb]
  have hori : r0.origin = s := by rw [hr0]; simp only [Run.blockWriteBack]; split <;> simp
  have hws : s.width = if s.thumb then 2#32 else 4#32 := rfl
  have hcalls : (.write .word (alignWord (f.range s).start) (f.stored s 0 i) :: storeCalls ((f.range s).start + 4#32) (fun _ => r0.st.blockValue b) rest)
      = storeCalls (f.range s).start (f.stored s) (i :: rest) := by
    simp only [storeCalls, List.mapIdx_cons, next_word_address, Nat.mul_zero, BitVec.add_zero]
    congr 2; funext k j; rw [hrest k]
  have h0env : r0.st.environment = s.environment.answer (.write .word (alignWord (f.range s).start) (f.stored s 0 i)) := by
    rw [hst]; cases f.w <;> simp [hs0]
  have h0outs : r0.st.outs = s.outs ++ [.write .word (alignWord (f.range s).start) (f.stored s 0 i)] := by
    rw [hst]; cases f.w <;> simp [hs0]
  rw [foldl_called]
  generalize hr1 : ({ r0 with st := _ } : Run) = r1
  have e_st : r1.st = ({ r0.st with outs := r0.st.outs ++ storeCalls ((f.range s).start + 4#32) (fun _ => r0.st.blockValue b) rest } : State).setEnvironment
      (r0.st.environment.replay (storeCalls ((f.range s).start + 4#32) (fun _ => r0.st.blockValue b) rest)) := by rw [← hr1]
  have e_env : r1.st.environment = s.environment.replay (storeCalls (f.range s).start (f.stored s) (i :: rest)) := by
    rw [← hcalls]
    show _ = (s.environment.answer _).replay _
    rw [← h0env, e_st]; rfl
  have e_outs : r1.st.outs = s.outs ++ storeCalls (f.range s).start (f.stored s) (i :: rest) := by
    rw [← hcalls, e_st]
    show r0.st.outs ++ _ = _
    rw [h0outs, List.append_assoc, List.singleton_append]
  have e_reg : ∀ p, r1.st.reg p = if f.w = true ∧ p = phys s.bankMode f.rn then (if f.rn = 15#4 then s.alignTarget (f.range s).final else (f.range s).final) else s.reg p := by
    intro p
    have : r1.st.reg p = r0.st.reg p := by rw [e_st]; rfl
    rw [this, hst]
    cases f.w
    · simp [hs0]
    · simp [State.reg_setX, alignTarget_eq, hs0]
      rfl
  have e_cpsr : r1.st.cpsr = s.cpsr := by
    have : r1.st.cpsr = r0.st.cpsr := by rw [e_st]; rfl
    rw [this, hst]; cases f.w <;> simp [hs0]
  have e_core : CoreKept s r1.st := by
    have : CoreKept s r0.st := by rw [hst]; cases f.w <;> simp [CoreKept, SpsrsKept, StagingKept, hs0]
    rw [e_st]; exact this
  have e_wid : r1.width = s.width := by rw [← hr1]; exact congrArg State.width hori
  have e_ori : r1.origin = s := by rw [← hr1]; exact hori
  have e_red : r1.redirected = (f.w && decide (f.rn = 15#4)) := by rw [← hr1]; exact hred
  have e_bank : r1.st.bankMode = s.bankMode := e_core.2.1
  clear hr1 e_st hst hrest hcalls h0env h0outs hori hred hr0
  have hlc : (storeCalls (f.range s).start (f.stored s) (i :: rest)).length = (i :: rest).length := by simp
  refine ⟨_, Run.finish_eq _ _, fun k hk hu => ?_, fun a ha hu => ?_, ?_, ?_, ?_, ?_, ?_, ⟨?_, ?_⟩, ?_⟩
  · rw [Run.mem_result, State.mem_eq, e_env]
    exact storeCalls_in hwf _ _ _ hlen k hk hu
  · rw [Run.mem_result]
    exact memKept_of_replay e_env (storeCalls_out _ _ _ ha) (by rw [hlc]; exact hu)
  · intro hw h15
    have hp := phys_ne_pc s.bankMode h15
    rw [State.x_eq, Run.bankMode_result, e_bank, Run.reg_result _ _ hp, e_reg]
    simp [hw, h15]
  · intro p hpc hm
    rw [Run.reg_result _ _ hpc, e_reg]
    by_cases hw : f.w = true <;> simp_all
  · rw [Run.pc_result, State.pc_eq, e_reg, e_red, e_wid, hws]
    cases hw : f.w
    · simp [State.pc_eq]
    · by_cases h15 : f.rn = 15#4
      · have : s.thumb = false := by by_contra h; exact hpc (by simpa using h) h15
        simp [h15, alignTarget_arm this]
      · simp [h15, pc_ne_phys _ h15, State.pc_eq]
  · simp [e_cpsr]
  · simpa [CoreKept, SpsrsKept, StagingKept] using e_core
  · rw [Run.outs_result, e_outs]; rfl
  · rw [Run.environment_result, e_env]; rfl
  · rw [Run.delay_result, e_ori, e_red]; simp

/-- The load loop, but for the exception return (R183, R184). -/
theorem blockLoad_false (b : Block) (regs : List Reg) (hnd : regs.Nodup) (addr : Word) (r : Run) (hS : ¬ (b.sBit = true ∧ 15#4 ∈ regs)) 
    (m : Mode) (hm : m = if b.userBank then .usr else r.st.bankMode) :
    ∃ r', blockLoad b regs addr false r = .ok r' ∧
      (∀ (k : Nat) (h : k < regs.length), regs[k] ≠ 15#4 → r'.st.reg (phys m regs[k]) = (r.st.environment.reacted k).mem.read32 (alignWord (addr + BitVec.ofNat 32 (4 * k)))) ∧
      (∀ p, p ≠ .pc → p ∉ regs.map (phys m) → r'.st.reg p = r.st.reg p) ∧
      (15#4 ∉ regs → r'.st.pc = r.st.pc ∧ r'.redirected = r.redirected) ∧
      (∀ (k : Nat) (h : k < regs.length), regs[k] = 15#4 → r'.st.pc = r.st.alignTarget ((r.st.environment.reacted k).mem.read32 (alignWord (addr + BitVec.ofNat 32 (4 * k)))) ∧ r'.redirected = true) ∧
      r'.origin = r.origin ∧ r'.st.cpsr = r.st.cpsr ∧ CoreKept r.st r'.st ∧
      Calls r.st r'.st (regs.mapIdx fun k _ => .read .word (alignWord (addr + BitVec.ofNat 32 (4 * k))) ((r.st.environment.reacted k).mem.read32 (alignWord (addr + BitVec.ofNat 32 (4 * k))))) := by
  induction regs generalizing addr r with
  | nil => exact ⟨r, rfl, by simp, by simp, by simp, by simp, rfl, rfl, ⟨⟨rfl, rfl, rfl, rfl, rfl⟩, rfl, rfl, rfl, rfl, rfl⟩, by simp, rfl⟩
  | cons i rest ih =>
    obtain ⟨hi, hnd'⟩ := List.nodup_cons.mp hnd
    have hcond : (decide (i = 15#4) && b.sBit) = false := by
      by_contra h
      simp only [Bool.not_eq_false, Bool.and_eq_true, decide_eq_true_eq] at h
      exact hS ⟨h.2, by simp [h.1]⟩
    rw [blockLoad]
    simp only [Run.blockWriteBack, Bool.false_and, Bool.false_eq_true, if_false, Run.blockWriteReg, hcond]
    set v := (r.st.readWord addr).value with hv
    set q : Run := if b.userBank = true then (r.map fun x => x.called (r.st.readWord addr).call).setXusr i v else (r.map fun x => x.called (r.st.readWord addr).call).setX i v with hq
    have q_reg : ∀ p, p ≠ .pc → q.st.reg p = if p = phys m i then v else r.st.reg p := by
      intro p hp
      rw [hq]
      by_cases h15 : i = 15#4
      · subst h15
        cases hu : b.userBank <;> simp [Run.setXusr, Run.setX, State.reg_writePc, hp]
      · rw [hm]
        cases hu : b.userBank <;> simp [Run.setXusr, Run.setX, h15, State.reg_setReg]
    have q_pc : q.st.pc = if i = 15#4 then r.st.alignTarget v else r.st.pc := by
      rw [hq]
      by_cases h15 : i = 15#4
      · cases hu : b.userBank <;> simp [Run.setXusr, Run.setX, h15] <;> rfl
      · cases hu : b.userBank <;> simp [Run.setXusr, Run.setX, h15, State.pc_setReg, phys_ne_pc]
    have q_red : q.redirected = (r.redirected || decide (i = 15#4)) := by
      rw [hq]
      by_cases h15 : i = 15#4 <;> cases hu : b.userBank <;> simp [Run.setXusr, Run.setX, h15]
    have q_ori : q.origin = r.origin := by
      rw [hq]
      by_cases h15 : i = 15#4 <;> cases hu : b.userBank <;> simp [Run.setXusr, Run.setX, h15]
    have q_cpsr : q.st.cpsr = r.st.cpsr := by
      rw [hq]
      by_cases h15 : i = 15#4 <;> cases hu : b.userBank <;> simp [Run.setXusr, Run.setX, h15]
    have q_env : q.st.environment = r.st.environment.react := by
      rw [hq]
      by_cases h15 : i = 15#4 <;> cases hu : b.userBank <;> simp [Run.setXusr, Run.setX, h15] <;> rfl
    have q_core : CoreKept r.st q.st := by
      rw [hq]
      by_cases h15 : i = 15#4 <;> cases hu : b.userBank <;> simp [Run.setXusr, Run.setX, h15, CoreKept, SpsrsKept, StagingKept]
    have q_outs : q.st.outs = r.st.outs ++ [(r.st.readWord addr).call] := by
      rw [hq]
      by_cases h15 : i = 15#4 <;> cases hu : b.userBank <;> simp [Run.setXusr, Run.setX, h15]
    clear_value q
    obtain ⟨r', h0, h1, h2, h3, h4, h5, h6, h7, h8, h9⟩ := ih hnd' (addr + 4#32) q (fun h => hS ⟨h.1, by simp [h.2]⟩) (by rw [q_core.2.1]; exact hm)
    simp only [next_word_address, q_env] at h1 h4 h8 h9
    have hth : q.st.thumb = r.st.thumb := by rw [State.thumb_eq, State.thumb_eq, q_cpsr]
    refine ⟨r', h0, ?_, ?_, ?_, ?_, ?_, ?_, ?_, ?_, ?_⟩
    · intro k hk hne
      cases k with
      | zero =>
        simp only [List.getElem_cons_zero] at hne ⊢
        rw [h2 _ (phys_ne_pc _ hne), q_reg _ (phys_ne_pc _ hne)]
        · simp [hv, State.readWord, Environment.reacted, State.mem_eq]
        · intro hc
          obtain ⟨j, hj, e⟩ := List.mem_map.mp hc
          exact hi (phys_injective _ e ▸ hj)
      | succ k => exact h1 k (by simpa using hk) hne
    · intro p hp hmem
      simp only [List.map_cons, List.mem_cons, not_or] at hmem
      rw [h2 p hp hmem.2, q_reg p hp, if_neg hmem.1]
    · intro h15
      simp only [List.mem_cons, not_or] at h15
      obtain ⟨e1, e2⟩ := h3 h15.2
      rw [e1, e2, q_pc, q_red]
      simp [Ne.symm h15.1]
    · intro k hk h15
      cases k with
      | zero =>
        simp only [List.getElem_cons_zero] at h15
        obtain ⟨e1, e2⟩ := h3 (h15 ▸ hi)
        rw [e1, e2, q_pc, q_red]
        simp [h15, hv, State.readWord, Environment.reacted, State.mem_eq]
      | succ k =>
        obtain ⟨e1, e2⟩ := h4 k (by simpa using hk) h15
        rw [e1, e2]
        exact ⟨alignTarget_congr hth _, rfl⟩
    · rw [h5, q_ori]
    · rw [h6, q_cpsr]
    · exact coreKept_trans q_core h7
    · rw [h8, q_outs]; simp [State.readWord, Environment.reacted, State.mem_eq]
    · rw [h9]; simp only [List.mapIdx_cons, Environment.replay, List.foldl_cons]; rfl

/-- The write-back of the first load comes before the loop (R183). -/
theorem blockLoad_first (b : Block) (i : Reg) (rest : List Reg) (addr : Word) (r : Run) :
    blockLoad b (i :: rest) addr true r = blockLoad b (i :: rest) addr false (if b.w then r.setX b.rn b.final else r) := by
  rw [blockLoad, blockLoad]
  simp only [Run.blockWriteBack, Bool.true_and, Bool.false_and, Bool.false_eq_true, if_false]
  cases b.w
  · rfl
  · have h1 : ∀ a, (r.setX b.rn b.final).st.readWord a = r.st.readWord a := by intro a; simp [State.readWord]
    simp only [if_true, h1]
    have h2 : ∀ e, (r.map fun x => x.called e).setX b.rn b.final = (r.setX b.rn b.final).map fun x => x.called e := by
      intro e
      by_cases h : b.rn = 15#4
      · simp only [Run.setX, h, if_true]; rfl
      · simp only [Run.setX, h, if_false]; rfl
    rw [h2]

/-- The load loop over two lists. -/
theorem blockLoad_append (b : Block) (xs ys : List Reg) (addr : Word) (r : Run) :
   blockLoad b (xs ++ ys) addr false r = match blockLoad b xs addr false r with
     | .ok r => blockLoad b ys (addr + BitVec.ofNat 32 (4 * xs.length)) false r
     | .error e => .error e := by
  induction xs generalizing addr r with
  | nil => simp [blockLoad]
  | cons i rest ih =>
    rw [List.cons_append, blockLoad, blockLoad]
    cases (Run.blockWriteBack (Run.map r fun x => x.called (r.st.readWord addr).call) b false).blockWriteReg b i (r.st.readWord addr).value with
    | error e => rfl
    | ok q => simp only []; rw [ih, List.length_cons, next_word_address]

/-- What a block load answers, but for the exception return (R183, R184, R185). -/
theorem loadMultiple_spec (f : BlockFields) (s : State) (hpc : s.thumb = true → f.rn ≠ 15#4) (hS : ¬ (f.sBit = true ∧ 15#4 ∈ f.regs s)) :
      ∃ t, loadMultiple f.p f.u f.sBit f.w f.rn f.list s = .next t ∧
        let word := fun k => (s.environment.reacted k).mem.read32 (f.wordAddress s k)
        let written := (f.regs s).map (f.target s)
        (∀ (k : Nat) (h : k < (f.regs s).length), (f.regs s)[k] ≠ 15#4 → t.reg (f.target s (f.regs s)[k]) = word k) ∧
        (f.w = true → f.rn ≠ 15#4 → phys s.bankMode f.rn ∉ written → t.x f.rn = (f.range s).final) ∧
        RegsKept s t (written ++ if f.w then [phys s.bankMode f.rn] else []) ∧
        t.pc = (if 15#4 ∈ f.regs s then
            word ((f.regs s).length - 1) &&& (if s.thumb then 0xFFFFFFFE#32 else 0xFFFFFFFC#32)
          else if f.w ∧ f.rn = 15#4 then (f.range s).final &&& 0xFFFFFFFC#32
          else s.pc + if s.thumb then 2#32 else 4#32) ∧
        t.cpsr = s.cpsr ∧ MemKeptBut s t (f.regs s).length ∧ CoreKept s t ∧
        Calls s t ((f.regs s).mapIdx fun k _ => .read .word (f.wordAddress s k) (word k)) ∧
        t.delay = s.extraCycles (15#4 ∈ f.regs s ∨ f.w ∧ f.rn = 15#4) (if 15#4 ∈ f.regs s then s.params.cycles.loadPc else s.params.cycles.load) := by
  unfold loadMultiple
  rw [BlockFields.block_eq]
  simp only [Bool.true_and]
  obtain ⟨i, rest, hr⟩ : ∃ i rest, f.regs s = i :: rest := by
    cases h : f.regs s with
    | nil => exact absurd h (BlockFields.regs_ne_nil f s)
    | cons i rest => exact ⟨i, rest, rfl⟩
  have hnd := BlockFields.regs_nodup f s
  set b : Block := { rn := f.rn, sBit := f.sBit, w := f.w, regs := f.regs s, start := (f.range s).start, final := (f.range s).final, userBank := f.sBit && !decide (15#4 ∈ f.regs s), hasPc := decide (15#4 ∈ f.regs s) } with hb
  have hu : b.userBank = f.sBit := by
    rw [hb]; cases hs : f.sBit
    · rfl
    · have : 15#4 ∉ f.regs s := fun h => hS ⟨hs, h⟩
      simp [this]
  have hfirst : blockLoad b (f.regs s) (f.range s).start true (Run.start s) = blockLoad b (f.regs s) (f.range s).start false (if f.w then (Run.start s).setX f.rn (f.range s).final else Run.start s) := by
    rw [hr]; exact blockLoad_first _ _ _ _ _
  rw [hfirst]
  set r0 : Run := if f.w then (Run.start s).setX f.rn (f.range s).final else Run.start s with hr0
  have r0_reg : ∀ p, r0.st.reg p = if f.w = true ∧ p = phys s.bankMode f.rn then (if f.rn = 15#4 then s.alignTarget (f.range s).final else (f.range s).final) else s.reg p := by
    intro p; rw [hr0]; cases f.w <;> simp [State.reg_setX]
  have r0_red : r0.redirected = (f.w && decide (f.rn = 15#4)) := by rw [hr0]; cases f.w <;> simp
  have r0_ori : r0.origin = s := by rw [hr0]; cases f.w <;> simp
  have r0_cpsr : r0.st.cpsr = s.cpsr := by rw [hr0]; cases f.w <;> simp
  have r0_env : r0.st.environment = s.environment := by rw [hr0]; cases f.w <;> simp
  have r0_outs : r0.st.outs = s.outs := by rw [hr0]; cases f.w <;> simp
  have r0_core : CoreKept s r0.st := by rw [hr0]; cases f.w <;> simp [CoreKept, SpsrsKept, StagingKept]
  have r0_th : r0.st.thumb = s.thumb := by rw [State.thumb_eq, State.thumb_eq, r0_cpsr]
  clear_value r0
  obtain ⟨r', h0, h1, h2, h3, h4, h5, h6, h7, h8, h9⟩ := blockLoad_false b (f.regs s) hnd (f.range s).start r0 hS (if b.userBank then .usr else r0.st.bankMode) rfl
  have htgt : ∀ j, phys (if b.userBank then Mode.usr else r0.st.bankMode) j = f.target s j := by
    intro j; rw [hu, r0_core.2.1]; unfold BlockFields.target; cases f.sBit <;> rfl
  have htgt' : (phys (if b.userBank then Mode.usr else r0.st.bankMode)) = f.target s := funext htgt
  rw [htgt'] at h1 h2
  simp only [r0_env] at h1 h4 h8 h9
  have hcore : CoreKept s r'.st := coreKept_trans r0_core h7
  have hori : r'.origin = s := h5.trans r0_ori
  have htne : ∀ j, j ≠ 15#4 → f.target s j ≠ .pc := by
    intro j hj; unfold BlockFields.target; split <;> exact phys_ne_pc _ hj
  rw [h0]
  refine ⟨_, Run.finish_eq _ _, ?_, ?_, ?_, ?_, ?_, ?_, ?_, ⟨?_, ?_⟩, ?_⟩
  · intro k hk hne
    rw [Run.reg_result _ _ (htne _ hne), h1 k hk hne]; rfl
  · intro hw h15 hnot
    have hp := phys_ne_pc s.bankMode h15
    rw [State.x_eq, Run.bankMode_result, hcore.2.1, Run.reg_result _ _ hp, h2 _ hp hnot, r0_reg]
    simp [hw, h15]
  · intro p hp hm
    simp only [List.mem_append, not_or] at hm
    rw [Run.reg_result _ _ hp, h2 p hp hm.1, r0_reg]
    cases hw : f.w
    · simp
    · have := hm.2; simp only [hw, if_true, List.mem_singleton] at this; simp [this]
  · rw [Run.pc_result]
    by_cases h15 : 15#4 ∈ f.regs s
    · obtain ⟨init, hinit, _⟩ := BlockFields.regs_last f s h15
      have hlen : (f.regs s).length - 1 < (f.regs s).length := by rw [hinit]; simp
      have hget : (f.regs s)[(f.regs s).length - 1] = 15#4 := by simp [hinit]
      obtain ⟨e1, e2⟩ := h4 _ hlen hget
      rw [e2, e1, if_pos rfl, if_pos h15, alignTarget_eq, r0_th]; rfl
    · obtain ⟨e1, e2⟩ := h3 h15
      rw [e1, e2, Run.width, hori, r0_red, if_neg h15, State.pc_eq, r0_reg]
      cases hw : f.w
      · simp [State.pc_eq]; rfl
      · by_cases hn : f.rn = 15#4
        · have : s.thumb = false := by by_contra h; exact hpc (by simpa using h) hn
          simp [hn, alignTarget_arm this]
        · simp [hn, pc_ne_phys _ hn, State.pc_eq]; rfl
  · rw [Run.cpsr_result, h6, r0_cpsr]
  · intro a hua
    rw [Run.mem_result]
    exact memKept_of_replay h9 (readCalls_out (f.regs s) (fun k => (alignWord ((f.range s).start + BitVec.ofNat 32 (4 * k)), (s.environment.reacted k).mem.read32 (alignWord ((f.range s).start + BitVec.ofNat 32 (4 * k))))) _) (by simpa using hua)
  · simpa [CoreKept, SpsrsKept, StagingKept] using hcore
  · rw [Run.outs_result, h8, r0_outs]; rfl
  · rw [Run.environment_result, h9]; rfl
  · rw [Run.delay_result, hori]
    by_cases h15 : 15#4 ∈ f.regs s
    · obtain ⟨init, hinit, _⟩ := BlockFields.regs_last f s h15
      have hlen : (f.regs s).length - 1 < (f.regs s).length := by rw [hinit]; simp
      have hget : (f.regs s)[(f.regs s).length - 1] = 15#4 := by simp [hinit]
      rw [(h4 _ hlen hget).2]; simp [State.loadCycles, h15]
    · rw [(h3 h15).2, r0_red]; simp [State.loadCycles, h15]

end Sys2Proof.Machine
end

