-- ==== Sys2Proof/Laws/Branch.lean ====
section
/-! SUPPORT. What branches answer and where they go, an instruction without effect, and MSR (spec/46_arm_branch_status_system.md). -/

namespace Sys2Proof.Machine

/-- Nothing of the system state changed. -/
theorem systemKept_refl (s : State) : SystemKept s s := ⟨⟨rfl, rfl, rfl, rfl, rfl⟩, rfl, ⟨rfl, rfl, rfl, rfl⟩, rfl, rfl, rfl, rfl, rfl, rfl⟩

/-- What an instruction that ends in a jump answers (R90). -/
theorem jump_spec (r : Run) (v : Word) (n : Nat) (w : Word) (hw : r.st.alignTarget v = w) :
   ∃ t, (r.jump v).finish n = .next t ∧ t.pc = w ∧ (∀ p, p ≠ .pc → t.reg p = r.st.reg p) ∧ t.cpsr = r.st.cpsr ∧ t.mem = r.st.mem ∧ SystemKept r.st t ∧ t.outs = r.st.outs ∧ t.delay = r.origin.extraCycles true n := by
  refine ⟨_, Run.finish_eq _ _, ?_, fun p hp => ?_, ?_, ?_, ?_, ?_, rfl⟩
  · simp [hw]
  · rw [Run.reg_result _ _ hp]; simp [State.reg_writePc, hp]
  · simp
  · simp
  · simp [SystemKept, SpsrsKept, StepperKept, StagingKept]
  · simp

/-- Where an ARM branch goes (R190). -/
theorem arm_branch_target (s : State) (ht : s.thumb = false) (ha : s.pcAligned) (imm24 : BitVec 24) : s.alignTarget (s.pc + 8#32 + branchOffset imm24) = s.pc + 8#32 + BitVec.ofInt 32 (4 * imm24.toInt) := by
  have hal : s.pc.toNat % 4 = 0 := by
    unfold State.pcAligned at ha; rw [alignTarget_arm ht] at ha; exact (aligned_four _).mp ha
  rw [alignTarget_arm ht]
  unfold branchOffset
  rw [signExtend_shiftLeft 24 2 imm24 (by decide)]
  apply (aligned_four _).mpr
  have := ofInt_four_mul_mod imm24.toInt
  simp only [BitVec.toNat_add, BitVec.toNat_ofNat]
  norm_num
  omega

/-- Where a Thumb branch goes (R280, R284). -/
theorem thumb_branch_target (s : State) (n : Nat) (hn : n ≤ 32) (ht : s.thumb = true) (ha : s.pcAligned) (off : BitVec n) : s.alignTarget (s.pc + 4#32 + thumbOffset n off) = s.pc + 4#32 + BitVec.ofInt 32 (2 * off.toInt) := by
  have hal : s.pc.toNat % 2 = 0 := by
    unfold State.pcAligned at ha; rw [alignTarget_thumb ht] at ha; exact (aligned_two _).mp ha
  rw [alignTarget_thumb ht]
  unfold thumbOffset
  rw [signExtend_shiftLeft n 1 off hn]
  apply (aligned_two _).mpr
  have := ofInt_two_mul_mod off.toInt
  simp only [BitVec.toNat_add, BitVec.toNat_ofNat]
  norm_num
  omega

/-- A write of the link register. -/
theorem setX_link (s : State) (v : Word) : s.setX 14#4 v = s.setReg (phys s.bankMode 14#4) v := State.setX_of_ne _ _ (by decide)

/-- A write of the link register at the start of an instruction. -/
theorem start_setX_link (s : State) (v : Word) : ((Run.start s).setX 14#4 v) = (Run.start s).map (·.setReg (phys s.bankMode 14#4) v) := rfl

/-- The link register is not `pc`. -/
theorem link_ne_pc (s : State) : phys s.bankMode 14#4 ≠ .pc := phys_ne_pc _ (by decide)

/-- What an instruction without effect answers (R89). -/
theorem noEffect_spec (s : State) (n : Nat) : ∃ t, noEffect s n = .next t ∧ t.pc = s.pc + s.width ∧ RegsKept s t [] ∧ t.cpsr = s.cpsr ∧ MemKept s t ∧ SystemKept s t ∧ t.outs = s.outs ∧ t.delay = s.extraCycles false n := by
  refine ⟨_, Run.finish_eq _ _, ?_, fun p hp _ => ?_, ?_, ?_, ?_, ?_, rfl⟩
  · simp
  · rw [Run.reg_result _ _ hp]; rfl
  · simp
  · intro a; simp
  · simp [SystemKept, SpsrsKept, StepperKept, StagingKept]
  · simp

/-- The mask of R195, bit by bit. -/
theorem getLsbD_msrMask (mask : BitVec 4) (i : Nat) (hi : i < 32) : (msrMask mask).getLsbD i = mask.getLsbD (i / 8) := by
  have : ∀ a b c d : Bool, ((if a = true then 0xFF000000#32 else 0#32) ||| (if b = true then 0x00FF0000#32 else 0#32) |||
    (if c = true then 0x0000FF00#32 else 0#32) ||| (if d = true then 0x000000FF#32 else 0#32)).getLsbD i = if i / 8 = 3 then a else if i / 8 = 2 then b else if i / 8 = 1 then c else d := by
    revert i; decide +kernel
  rw [msrMask, this]
  have : i / 8 < 4 := by omega
  interval_cases (i / 8) <;> rfl

/-- The word of R195, bit by bit. -/
theorem getLsbD_msrWord (old v : Word) (mask : BitVec 4) (control writesT : Bool) (i : Nat) (hi : i < 32) :
   (msrWord old v mask control writesT).getLsbD i = if (if i < 8 then control && (i != 5 || writesT) else mask.getLsbD (i / 8)) then v.getLsbD i else old.getLsbD i := by
  simp only [msrWord, BitVec.getLsbD_append]
  rcases Nat.lt_or_ge i 5 with h | h
  · have : i < 8 := by omega
    have h5 : i ≠ 5 := by omega
    cases control <;> simp [h, this, h5]
  · rcases Nat.lt_or_ge i 6 with h6 | h6
    · have : i = 5 := by omega
      subst this
      cases control <;> cases writesT <;> simp
    · rcases Nat.lt_or_ge i 8 with h8 | h8
      · interval_cases i <;> cases control <;> simp
      · have h5 : ¬ i < 5 := by omega
        interval_cases i <;> simp <;> (first | (cases mask[1] <;> simp) | (cases mask[2] <;> simp) | (cases mask[3] <;> simp))

/-- The masked write is the word field by field (R195, R196, R197). -/
theorem mergeBits_eq_msrWord (old v : Word) (mask : BitVec 4) (m : Word) (control writesT : Bool)
   (hm : ∀ i < 32, m.getLsbD i = if i < 8 then control && (i != 5 || writesT) else mask.getLsbD (i / 8)) : mergeBits old v m = msrWord old v mask control writesT := by
  apply word_ext; intro i hi
  rw [getLsbD_msrWord _ _ _ _ _ _ hi, ← hm i hi]
  simp only [mergeBits, BitVec.getLsbD_or, BitVec.getLsbD_and, BitVec.getLsbD_not, hi, decide_true, Bool.true_and]
  cases m.getLsbD i <;> simp

/-- What MSR to SPSR answers (R197). -/
theorem msrToSpsr_spec (mask : BitVec 4) (v : Word) (s : State) (ht : s.thumb = false) : ∃ t, msrToSpsr mask v s = .next t ∧
      (s.bankMode.hasSpsr = true → t.spsrOf s.bankMode = msrWord (s.spsrOf s.bankMode) v mask (mask.getLsbD 0) true) ∧
      (∀ m : Mode, m.hasSpsr = true → m ≠ s.bankMode → t.spsrOf m = s.spsrOf m) ∧
      t.pc = s.pc + 4#32 ∧ RegsKept s t [] ∧ t.cpsr = s.cpsr ∧ t.bankMode = s.bankMode ∧ MemKept s t ∧ StepperKept s t ∧
      t.outs = s.outs ∧ t.delay = s.extraCycles false s.params.cycles.status := by
  have hm : mergeBits s.spsrCur v (msrMask mask) = msrWord s.spsrCur v mask (mask.getLsbD 0) true := by
    apply mergeBits_eq_msrWord; intro i hi
    rw [getLsbD_msrMask _ _ hi]
    rcases Nat.lt_or_ge i 8 with h | h
    · have : i / 8 = 0 := by omega
      simp [h, this]
    · have : ¬ i < 8 := by omega
      simp [this]
  refine ⟨_, Run.finish_eq _ _, fun h => ?_, fun m h h' => ?_, ?_, ?_, ?_, ?_, ?_, ?_, ?_, rfl⟩
  all_goals simp only [State.setSpsrCur]
  · simp only [State.spsrCur] at hm ⊢
    rw [← hm]
    cases hb : s.bankMode <;> simp_all [Mode.hasSpsr, State.spsrOf]
  · cases m <;> simp_all [Mode.hasSpsr, State.spsrOf] <;> (intro e; exact absurd e.symm h')
  · simp [width_arm ht]
  · intro p hp hm; rw [Run.reg_result _ _ hp]; simp
  · simp
  · simp
  · intro a; simp
  · simp [StepperKept, StagingKept]
  · simp

end Sys2Proof.Machine
end

