-- ==== Sys2Proof/Laws/DataProcessing.lean ====
section
/-! SUPPORT. What data processing and the multiplies answer, once for all of them (spec/42_arm_data_processing.md, spec/43_arm_multiply.md). -/

namespace Sys2Proof.Machine

/-- The flags of a result, and the rest of the status word. -/
theorem flagsAre_of_withFlags (s : State) (t : State) (o : AluOut) (h : t.cpsr = Psr.withFlags s.cpsr (o.r.getLsbD 31) (o.r == 0#32) o.c o.v) :
    FlagsAre s t (o.r.getLsbD 31) (o.r == 0#32) o.c o.v := by
  rw [FlagsAre, h]; simp

/-- What a data-processing instruction runs: its operation on its two operands. -/
theorem exec_dpInstr (op : AluOp) (c : Cond) (setFlags : Bool) (rn rd : Reg) (f : DpForm) (s : State) (ht : s.thumb = false) :
    ∃ sf b, (op.writesRd = true → sf = setFlags) ∧ (b = true → f.shiftCycles s = s.params.cycles.regShift) ∧ (b = false → f.shiftCycles s = 0) ∧ exec (dpInstr op c setFlags rn rd f) s = dataProcessing op sf rd (f.first s rn) (f.second s) b s := by
  have hx := xop_arm ht
  cases f with
  | shiftImm n k rm =>
    refine ⟨if op.writesRd then setFlags else true, false, fun h => by simp [h], by simp, fun _ => rfl, ?_⟩
    have : (DpForm.shiftImm n k rm).first s rn = s.xop rn := by rw [hx]; rfl
    rw [this]
    have : (DpForm.shiftImm n k rm).second s = s.operandShiftImm n k rm := by simp only [State.operandShiftImm, hx]; rfl
    rw [this]
    cases op <;> rfl
  | shiftReg rs k rm =>
    refine ⟨if op.writesRd then setFlags else true, true, fun h => by simp [h], fun _ => rfl, by simp, ?_⟩
    have : (DpForm.shiftReg rs k rm).second s = s.operandShiftReg rs k rm := by
      simp only [State.operandShiftReg, State.shiftAmount, lowByte_toNat]; rfl
    rw [this]
    cases op <;> rfl
  | imm r i =>
    refine ⟨if op.writesRd then setFlags else true, false, fun h => by simp [h], by simp, fun _ => rfl, ?_⟩
    have : (DpForm.imm r i).first s rn = s.xop rn := by rw [hx]; rfl
    rw [this]
    cases op <;> rfl

/-- What a short multiply answers (R150, R151, R152). -/
theorem multiplyShort_spec (i : Instr) (s : State) (ht : s.thumb = false) (setFlags : Bool) (rd : Reg) (r : Word) (n : Nat)
   (he : exec i s = multiplyShort setFlags rd r n s) :
    ∃ t, exec i s = .next t ∧ (rd ≠ 15#4 → t.x rd = r) ∧ t.pc = (if rd = 15#4 then r &&& 0xFFFFFFFC#32 else s.pc + 4#32) ∧
        (setFlags = true → FlagsAre s t (r.getLsbD 31) (r == 0#32) false false) ∧
        (setFlags = false → t.cpsr = s.cpsr) ∧ RegsKept s t [phys s.bankMode rd] ∧ MemKept s t ∧ SystemKept s t ∧
        t.outs = s.outs ∧ t.delay = s.extraCycles (rd = 15#4) n := by
  rw [he, multiplyShort_eq]
  refine ⟨_, rfl, fun h => ?_, ?_, ?_, ?_, ?_, ?_, ?_, ?_, ?_⟩
  · have hp := phys_ne_pc s.bankMode h
    cases setFlags <;> simp [State.x_eq, Run.reg_result, hp, State.reg_setX, h]
  · cases setFlags <;> by_cases h : rd = 15#4 <;> simp [h, width_arm ht, alignTarget_arm ht]
  · rintro rfl; simp [FlagsAre]
  · rintro rfl; simp
  · intro p hpc hm; cases setFlags <;> simp_all [Run.reg_result, State.reg_setX]
  · intro a; cases setFlags <;> simp
  · cases setFlags <;> simp [SystemKept, SpsrsKept, StepperKept, StagingKept]
  · cases setFlags <;> simp
  · cases setFlags <;> simp

/-- What a long multiply answers (R150, R153 to R156). -/
theorem multiplyLong_spec (i : Instr) (s : State) (ht : s.thumb = false) (setFlags : Bool) (rdHi rdLo : Reg) (p : BitVec 64) (n : Nat)
   (he : exec i s = multiplyLong setFlags rdHi rdLo p n s) :
    ∃ t, exec i s = .next t ∧ 
      let hi : Word := p.extractLsb' 32 32
      let lo : Word := p.extractLsb' 0 32
      (rdHi ≠ 15#4 → t.x rdHi = hi) ∧ (rdLo ≠ 15#4 → rdLo ≠ rdHi → t.x rdLo = lo) ∧
        t.pc = (if rdHi = 15#4 then hi &&& 0xFFFFFFFC#32 else if rdLo = 15#4 then lo &&& 0xFFFFFFFC#32 else s.pc + 4#32) ∧
        (setFlags = true → FlagsAre s t (p.getLsbD 63) (p == 0#64) false false) ∧
        (setFlags = false → t.cpsr = s.cpsr) ∧ RegsKept s t [phys s.bankMode rdHi, phys s.bankMode rdLo] ∧
        MemKept s t ∧ SystemKept s t ∧ t.outs = s.outs ∧
        t.delay = s.extraCycles (rdLo = 15#4 ∨ rdHi = 15#4) n := by
  rw [he, multiplyLong_eq]
  refine ⟨_, rfl, fun h => ?_, fun h h' => ?_, ?_, ?_, ?_, ?_, ?_, ?_, ?_, ?_⟩
  · have hp := phys_ne_pc s.bankMode h
    cases setFlags <;> simp [State.x_eq, Run.reg_result, hp, State.reg_setX, h]
  · have hp := phys_ne_pc s.bankMode h
    have hp' : phys s.bankMode rdLo ≠ phys s.bankMode rdHi := fun e => h' (phys_injective _ e)
    cases setFlags <;> simp [State.x_eq, Run.reg_result, hp, State.reg_setX, h, hp']
  · cases setFlags <;> by_cases h : rdHi = 15#4 <;> by_cases h' : rdLo = 15#4 <;> simp [h, h', width_arm ht, alignTarget_eq, ht]
  · rintro rfl; simp [FlagsAre]
  · rintro rfl; simp
  · intro p hpc hm; cases setFlags <;> simp_all [Run.reg_result, State.reg_setX]
  · intro a; cases setFlags <;> simp
  · cases setFlags <;> simp [SystemKept, SpsrsKept, StepperKept, StagingKept]
  · cases setFlags <;> simp
  · cases setFlags <;> simp

end Sys2Proof.Machine
end

