-- ==== Sys2Proof/Laws/Decode.lean ====
section
/-! SUPPORT. The decode tables are unambiguous (spec/30_encoding.md R61, R66): no two rows of a table overlap, so the row a word matches
is the one that decodes it; and, format by format, where the encoder puts the bits of the decode index and that
the decoder reads every field back. -/

namespace Sys2Proof

/-- No two rows of the ARM table overlap. -/
theorem armRows_disjoint : armRows.Pairwise fun a b => (a.pattern ^^^ b.pattern) &&& a.mask &&& b.mask ≠ 0#32 := by
  decide +kernel

/-- No two rows of the Thumb table overlap. -/
theorem thumbRows_disjoint : thumbRows.Pairwise fun a b => (a.pattern ^^^ b.pattern) &&& a.mask &&& b.mask ≠ 0#16 := by
  decide +kernel

/-- A word that matches two rows has the bits both fix. -/
theorem match_agree {n : Nat} {x m p m' p' : BitVec n} (h : x &&& m = p) (h' : x &&& m' = p') :
    (p ^^^ p') &&& m &&& m' = 0#n := by
  subst h h'
  apply BitVec.eq_of_getLsbD_eq
  intro i hi
  simp only [BitVec.getLsbD_and, BitVec.getLsbD_xor, BitVec.getLsbD_zero]
  cases x.getLsbD i <;> cases m.getLsbD i <;> cases m'.getLsbD i <;> rfl

theorem find_of_disjoint {α : Type} {n : Nat} {rows : List α} (mask pattern : α → BitVec n)
    (hd : rows.Pairwise fun a b => (pattern a ^^^ pattern b) &&& mask a &&& mask b ≠ 0#n) {x : BitVec n} {r : α}
    (hr : r ∈ rows) (h : x &&& mask r = pattern r) : rows.find? (fun r => x &&& mask r == pattern r) = some r := by
  induction rows with
  | nil => cases hr
  | cons a rest ih =>
    obtain ⟨ha, hrest⟩ := List.pairwise_cons.mp hd
    rw [List.find?_cons]
    cases hp : (x &&& mask a == pattern a) with
    | true =>
      rcases List.mem_cons.mp hr with rfl | hr'
      · rfl
      · exact absurd (match_agree (by simpa using hp) h) (ha r hr')
    | false =>
      rcases List.mem_cons.mp hr with rfl | hr'
      · simp [h] at hp
      · exact ih hrest hr'

/-- Whether the rows leave no value of the listed bits unmatched, once the bits `known` have the values `val`: some row needs
no other bit, or both values of the next bit are covered. -/
def covered {α : Type} {n : Nat} (mask pattern : α → BitVec n) : List Nat → List α → BitVec n → BitVec n → Bool
  | [], rows, known, val => rows.any fun r => mask r &&& known == mask r && val &&& mask r == pattern r
  | b :: bits, rows, known, val =>
    (rows.any fun r => mask r &&& known == mask r && val &&& mask r == pattern r) ||
      ((covered mask pattern bits (rows.filter fun r => (pattern r ^^^ val) &&& mask r &&& known == 0#n)
          (known ||| 1#n <<< b) val) &&
        covered mask pattern bits (rows.filter fun r => (pattern r ^^^ val) &&& mask r &&& known == 0#n)
          (known ||| 1#n <<< b) (val ||| 1#n <<< b))

/-- Rows that cover every value of the bits match every word. -/
theorem covered_sound {α : Type} {n : Nat} (mask pattern : α → BitVec n) (bits : List Nat) (rows : List α)
    (known val x : BitVec n) (hx : x &&& known = val) (h : covered mask pattern bits rows known val = true) :
    ∃ r ∈ rows, x &&& mask r = pattern r := by
  have fixed : ∀ (rows : List α) (known val : BitVec n), x &&& known = val →
      (rows.any fun r => mask r &&& known == mask r && val &&& mask r == pattern r) = true →
      ∃ r ∈ rows, x &&& mask r = pattern r := by
    intro rows known val hx h
    obtain ⟨r, hr, hm⟩ := List.any_eq_true.mp h
    simp only [Bool.and_eq_true, beq_iff_eq] at hm
    refine ⟨r, hr, ?_⟩
    rw [← hm.2, ← hx, ← hm.1, BitVec.and_assoc, BitVec.and_comm known, BitVec.and_assoc, BitVec.and_self]
  induction bits generalizing rows known val with
  | nil => exact fixed rows known val hx h
  | cons b bits ih =>
    rw [covered, Bool.or_eq_true, Bool.and_eq_true] at h
    rcases h with h | ⟨h0, h1⟩
    · exact fixed rows known val hx h
    · have split : x &&& (known ||| 1#n <<< b) = val ∨ x &&& (known ||| 1#n <<< b) = val ||| 1#n <<< b := by
        rw [← hx]
        cases hb : x.getLsbD b
        · left
          apply BitVec.eq_of_getLsbD_eq
          intro i hi
          by_cases hib : i = b
          · subst hib; simp [hb]
          · have : (1#n <<< b).getLsbD i = false := by
              simp only [BitVec.getLsbD_shiftLeft, BitVec.getLsbD_one]
              have : ¬ (i - b = 0 ∧ ¬ i < b) := by omega
              simp; omega
            simp [this]
        · right
          apply BitVec.eq_of_getLsbD_eq
          intro i hi
          by_cases hib : i = b
          · subst hib; simp [hb]
          · have : (1#n <<< b).getLsbD i = false := by
              simp; omega
            simp [this]
      have sub : ∀ k v : BitVec n, x &&& k = v →
          covered mask pattern bits (rows.filter fun r => (pattern r ^^^ val) &&& mask r &&& known == 0#n) k v = true →
          ∃ r ∈ rows, x &&& mask r = pattern r := by
        intro k v hk hc
        obtain ⟨r, hr, hm⟩ := ih _ k v hk hc
        exact ⟨r, List.mem_of_mem_filter hr, hm⟩
      rcases split with hs | hs
      · exact sub _ _ hs h0
      · exact sub _ _ hs h1

/-- Some row of the ARM table matches every decode index (R61, R64). -/
theorem armRows_cover (x : Word) : ∃ r ∈ armRows, x &&& r.mask = r.pattern :=
  covered_sound ArmRow.mask ArmRow.pattern [27, 26, 25, 24, 23, 22, 21, 20, 7, 4, 6, 5] armRows 0#32 0#32 x (by simp)
    (by decide +kernel)

/-- Some row of the Thumb table matches every decode index (R66, R68). -/
theorem thumbRows_cover (x : Half) : ∃ r ∈ thumbRows, x &&& r.mask = r.pattern :=
  covered_sound ThumbRow.mask ThumbRow.pattern [15, 14, 13, 12, 11, 10, 9, 8, 7, 6] thumbRows 0#16 0#16 x (by simp)
    (by decide +kernel)

/-- The row of the ARM table a word matches is the one that decodes it. -/
theorem decodeArm_of (k : Nat) {r : ArmRow} (hk : armRows[k]? = some r) {w : Word}
    (h : armSpread (armIndex w) &&& r.mask = r.pattern) : decodeArm w = some (r.build w) := by
  unfold decodeArm armRowOf
  rw [find_of_disjoint ArmRow.mask ArmRow.pattern armRows_disjoint (List.mem_of_getElem? hk) h]
  rfl

/-- The row of the Thumb table a halfword matches is the one that decodes it. -/
theorem decodeThumb_of (k : Nat) {r : ThumbRow} (hk : thumbRows[k]? = some r) {h : Half}
    (hm : thumbSpread (thumbIndex h) &&& r.mask = r.pattern) : decodeThumb h = some (r.build h) := by
  unfold decodeThumb thumbRowOf
  rw [find_of_disjoint ThumbRow.mask ThumbRow.pattern thumbRows_disjoint (List.mem_of_getElem? hk) hm]
  rfl

theorem getLsbD_append_low {n m i : Nat} (x : BitVec n) (y : BitVec m) (h : i < m) :
    (x ++ y).getLsbD i = y.getLsbD i := by simp [BitVec.getLsbD_append, h]

theorem getLsbD_append_high {n m i : Nat} (x : BitVec n) (y : BitVec m) (h : m ≤ i) :
    (x ++ y).getLsbD i = x.getLsbD (i - m) := by simp [BitVec.getLsbD_append, Nat.not_lt.mpr h]

@[simp] theorem Cond.ofBits_bits (c : Cond) : Cond.ofBits c.bits = c := by cases c <;> rfl
@[simp] theorem ShiftKind.ofBits_bits (k : ShiftKind) : ShiftKind.ofBits k.bits = k := by cases k <;> rfl

/-- A low register is read back from its 3-bit field. -/
theorem reg3_setWidth {r : Reg} (h : r.isLow = true) : (reg3 r).setWidth 4 = r := by revert r; decide

/-- A register number in two parts is read back. -/
theorem reg_split (r : Reg) : (r.extractLsb' 3 1 ++ r.extractLsb' 0 3 : BitVec 4) = r := by revert r; decide

/-- A field that spans two parts of a halfword is read back whole. -/
theorem extract_split {n : Nat} (x : BitVec n) (r : Reg) :
    (x ++ r.extractLsb' 3 1 ++ r.extractLsb' 0 3).extractLsb' 0 4 = r := by
  apply BitVec.eq_of_getLsbD_eq
  intro i hi
  simp only [BitVec.getLsbD_extractLsb', BitVec.getLsbD_append]
  interval_cases i <;> simp

/-! ## Where the bits of the decode index stand -/

theorem index_A1 (op : BitVec 4) (cond : Cond) (setFlags : Bool) (rn : Reg) (rd : Reg) (shiftImm : BitVec 5) (kind : ShiftKind) (rm : Reg) :
    armIndex (encA1 op cond setFlags rn rd shiftImm kind rm) = 0b000#3 ++ op ++ BitVec.ofBool setFlags ++ BitVec.extractLsb' 0 1 shiftImm ++ kind.bits ++ 0b0#1 := by
  apply BitVec.eq_of_getLsbD_eq
  intro i hi
  simp only [armIndex, encA1, BitVec.getLsbD_append, BitVec.getLsbD_extractLsb']
  interval_cases i <;> simp

theorem index_A2 (op : BitVec 4) (cond : Cond) (setFlags : Bool) (rn : Reg) (rd : Reg) (rs : Reg) (kind : ShiftKind) (rm : Reg) :
    armIndex (encA2 op cond setFlags rn rd rs kind rm) = 0b000#3 ++ op ++ BitVec.ofBool setFlags ++ 0b0#1 ++ kind.bits ++ 0b1#1 := by
  apply BitVec.eq_of_getLsbD_eq
  intro i hi
  simp only [armIndex, encA2, BitVec.getLsbD_append, BitVec.getLsbD_extractLsb']
  interval_cases i <;> simp

theorem index_A3 (op : BitVec 4) (cond : Cond) (setFlags : Bool) (rn : Reg) (rd : Reg) (rotate : BitVec 4) (imm8 : BitVec 8) :
    armIndex (encA3 op cond setFlags rn rd rotate imm8) = 0b001#3 ++ op ++ BitVec.ofBool setFlags ++ BitVec.extractLsb' 4 4 imm8 := by
  apply BitVec.eq_of_getLsbD_eq
  intro i hi
  simp only [armIndex, encA3, BitVec.getLsbD_append, BitVec.getLsbD_extractLsb']
  interval_cases i <;> simp

theorem index_A4 (cond : Cond) (spsr : Bool) (rd : Reg) :
    armIndex (encA4 cond spsr rd) = 0b00010#5 ++ BitVec.ofBool spsr ++ 0b00#2 ++ 0b0000#4 := by
  apply BitVec.eq_of_getLsbD_eq
  intro i hi
  simp only [armIndex, encA4, BitVec.getLsbD_append, BitVec.getLsbD_extractLsb']
  interval_cases i <;> simp

theorem index_A5 (spsr : Bool) (cond : Cond) (mask : BitVec 4) (rm : Reg) :
    armIndex (encA5 spsr cond mask rm) = 0b00010#5 ++ BitVec.ofBool spsr ++ 0b10#2 ++ 0b0000#4 := by
  apply BitVec.eq_of_getLsbD_eq
  intro i hi
  simp only [armIndex, encA5, BitVec.getLsbD_append, BitVec.getLsbD_extractLsb']
  interval_cases i <;> simp

theorem index_A6 (spsr : Bool) (cond : Cond) (mask : BitVec 4) (rotate : BitVec 4) (imm8 : BitVec 8) :
    armIndex (encA6 spsr cond mask rotate imm8) = 0b00110#5 ++ BitVec.ofBool spsr ++ 0b10#2 ++ BitVec.extractLsb' 4 4 imm8 := by
  apply BitVec.eq_of_getLsbD_eq
  intro i hi
  simp only [armIndex, encA6, BitVec.getLsbD_append, BitVec.getLsbD_extractLsb']
  interval_cases i <;> simp

theorem index_A7 (cond : Cond) (rm : Reg) :
    armIndex (encA7 cond rm) = 0b00010010#8 ++ 0b0001#4 := by
  apply BitVec.eq_of_getLsbD_eq
  intro i hi
  simp only [armIndex, encA7, BitVec.getLsbD_append, BitVec.getLsbD_extractLsb']
  interval_cases i <;> simp

theorem index_A8 (acc : Bool) (cond : Cond) (setFlags : Bool) (rd : Reg) (rn : Reg) (rs : Reg) (rm : Reg) :
    armIndex (encA8 acc cond setFlags rd rn rs rm) = 0b000000#6 ++ BitVec.ofBool acc ++ BitVec.ofBool setFlags ++ 0b1001#4 := by
  apply BitVec.eq_of_getLsbD_eq
  intro i hi
  simp only [armIndex, encA8, BitVec.getLsbD_append, BitVec.getLsbD_extractLsb']
  interval_cases i <;> simp

theorem index_A9 (signed : Bool) (acc : Bool) (cond : Cond) (setFlags : Bool) (rdHi : Reg) (rdLo : Reg) (rs : Reg) (rm : Reg) :
    armIndex (encA9 signed acc cond setFlags rdHi rdLo rs rm) = 0b00001#5 ++ BitVec.ofBool signed ++ BitVec.ofBool acc ++ BitVec.ofBool setFlags ++ 0b1001#4 := by
  apply BitVec.eq_of_getLsbD_eq
  intro i hi
  simp only [armIndex, encA9, BitVec.getLsbD_append, BitVec.getLsbD_extractLsb']
  interval_cases i <;> simp

theorem index_A10 (byte : Bool) (cond : Cond) (rn : Reg) (rd : Reg) (rm : Reg) :
    armIndex (encA10 byte cond rn rd rm) = 0b00010#5 ++ BitVec.ofBool byte ++ 0b00#2 ++ 0b1001#4 := by
  apply BitVec.eq_of_getLsbD_eq
  intro i hi
  simp only [armIndex, encA10, BitVec.getLsbD_append, BitVec.getLsbD_extractLsb']
  interval_cases i <;> simp

theorem index_A11 (load : Bool) (signed : Bool) (half : Bool) (cond : Cond) (p : Bool) (u : Bool) (w : Bool) (rn : Reg) (rd : Reg) (rm : Reg) :
    armIndex (encA11 load signed half cond p u w rn rd rm) = 0b000#3 ++ BitVec.ofBool p ++ BitVec.ofBool u ++ 0b0#1 ++ BitVec.ofBool w ++ BitVec.ofBool load ++ 0b1#1 ++ BitVec.ofBool signed ++ BitVec.ofBool half ++ 0b1#1 := by
  apply BitVec.eq_of_getLsbD_eq
  intro i hi
  simp only [armIndex, encA11, BitVec.getLsbD_append, BitVec.getLsbD_extractLsb']
  interval_cases i <;> simp

theorem index_A12 (load : Bool) (signed : Bool) (half : Bool) (cond : Cond) (p : Bool) (u : Bool) (w : Bool) (rn : Reg) (rd : Reg) (immH : BitVec 4) (immL : BitVec 4) :
    armIndex (encA12 load signed half cond p u w rn rd immH immL) = 0b000#3 ++ BitVec.ofBool p ++ BitVec.ofBool u ++ 0b1#1 ++ BitVec.ofBool w ++ BitVec.ofBool load ++ 0b1#1 ++ BitVec.ofBool signed ++ BitVec.ofBool half ++ 0b1#1 := by
  apply BitVec.eq_of_getLsbD_eq
  intro i hi
  simp only [armIndex, encA12, BitVec.getLsbD_append, BitVec.getLsbD_extractLsb']
  interval_cases i <;> simp

theorem index_A13 (byte : Bool) (load : Bool) (cond : Cond) (p : Bool) (u : Bool) (w : Bool) (rn : Reg) (rd : Reg) (imm12 : BitVec 12) :
    armIndex (encA13 byte load cond p u w rn rd imm12) = 0b010#3 ++ BitVec.ofBool p ++ BitVec.ofBool u ++ BitVec.ofBool byte ++ BitVec.ofBool w ++ BitVec.ofBool load ++ BitVec.extractLsb' 4 4 imm12 := by
  apply BitVec.eq_of_getLsbD_eq
  intro i hi
  simp only [armIndex, encA13, BitVec.getLsbD_append, BitVec.getLsbD_extractLsb']
  interval_cases i <;> simp

theorem index_A14 (byte : Bool) (load : Bool) (cond : Cond) (p : Bool) (u : Bool) (w : Bool) (rn : Reg) (rd : Reg) (shiftImm : BitVec 5) (kind : ShiftKind) (rm : Reg) :
    armIndex (encA14 byte load cond p u w rn rd shiftImm kind rm) = 0b011#3 ++ BitVec.ofBool p ++ BitVec.ofBool u ++ BitVec.ofBool byte ++ BitVec.ofBool w ++ BitVec.ofBool load ++ BitVec.extractLsb' 0 1 shiftImm ++ kind.bits ++ 0b0#1 := by
  apply BitVec.eq_of_getLsbD_eq
  intro i hi
  simp only [armIndex, encA14, BitVec.getLsbD_append, BitVec.getLsbD_extractLsb']
  interval_cases i <;> simp

theorem index_A15 (load : Bool) (cond : Cond) (p : Bool) (u : Bool) (sBit : Bool) (w : Bool) (rn : Reg) (list : BitVec 16) :
    armIndex (encA15 load cond p u sBit w rn list) = 0b100#3 ++ BitVec.ofBool p ++ BitVec.ofBool u ++ BitVec.ofBool sBit ++ BitVec.ofBool w ++ BitVec.ofBool load ++ BitVec.extractLsb' 4 4 list := by
  apply BitVec.eq_of_getLsbD_eq
  intro i hi
  simp only [armIndex, encA15, BitVec.getLsbD_append, BitVec.getLsbD_extractLsb']
  interval_cases i <;> simp

theorem index_A16 (link : Bool) (cond : Cond) (imm24 : BitVec 24) :
    armIndex (encA16 link cond imm24) = 0b101#3 ++ BitVec.ofBool link ++ BitVec.extractLsb' 20 4 imm24 ++ BitVec.extractLsb' 4 4 imm24 := by
  apply BitVec.eq_of_getLsbD_eq
  intro i hi
  simp only [armIndex, encA16, BitVec.getLsbD_append, BitVec.getLsbD_extractLsb']
  interval_cases i <;> simp

theorem index_A17 (load : Bool) (cond : Cond) (p : Bool) (u : Bool) (n : Bool) (w : Bool) (rn : Reg) (crd : BitVec 4) (cp : BitVec 4) (imm8 : BitVec 8) :
    armIndex (encA17 load cond p u n w rn crd cp imm8) = 0b110#3 ++ BitVec.ofBool p ++ BitVec.ofBool u ++ BitVec.ofBool n ++ BitVec.ofBool w ++ BitVec.ofBool load ++ BitVec.extractLsb' 4 4 imm8 := by
  apply BitVec.eq_of_getLsbD_eq
  intro i hi
  simp only [armIndex, encA17, BitVec.getLsbD_append, BitVec.getLsbD_extractLsb']
  interval_cases i <;> simp

theorem index_A18 (cond : Cond) (opc1 : BitVec 4) (crn : BitVec 4) (crd : BitVec 4) (cp : BitVec 4) (opc2 : BitVec 3) (crm : BitVec 4) :
    armIndex (encA18 cond opc1 crn crd cp opc2 crm) = 0b1110#4 ++ opc1 ++ opc2 ++ 0b0#1 := by
  apply BitVec.eq_of_getLsbD_eq
  intro i hi
  simp only [armIndex, encA18, BitVec.getLsbD_append, BitVec.getLsbD_extractLsb']
  interval_cases i <;> simp

theorem index_A19 (load : Bool) (cond : Cond) (opc1 : BitVec 3) (crn : BitVec 4) (rd : Reg) (cp : BitVec 4) (opc2 : BitVec 3) (crm : BitVec 4) :
    armIndex (encA19 load cond opc1 crn rd cp opc2 crm) = 0b1110#4 ++ opc1 ++ BitVec.ofBool load ++ opc2 ++ 0b1#1 := by
  apply BitVec.eq_of_getLsbD_eq
  intro i hi
  simp only [armIndex, encA19, BitVec.getLsbD_append, BitVec.getLsbD_extractLsb']
  interval_cases i <;> simp

theorem index_A20 (cond : Cond) (comment : BitVec 24) :
    armIndex (encA20 cond comment) = 0b1111#4 ++ BitVec.extractLsb' 20 4 comment ++ BitVec.extractLsb' 4 4 comment := by
  apply BitVec.eq_of_getLsbD_eq
  intro i hi
  simp only [armIndex, encA20, BitVec.getLsbD_append, BitVec.getLsbD_extractLsb']
  interval_cases i <;> simp

theorem index_Undef (low : BitVec 28) (cond : Cond) :
    armIndex (encUndef low cond) = BitVec.extractLsb' 20 8 low ++ BitVec.extractLsb' 4 4 low := by
  apply BitVec.eq_of_getLsbD_eq
  intro i hi
  simp only [armIndex, encUndef, BitVec.getLsbD_append, BitVec.getLsbD_extractLsb']
  interval_cases i <;> simp

theorem index_T1 (op : BitVec 2) (offset5 : BitVec 5) (rs : Reg) (rd : Reg) :
    thumbIndex (encT1 op offset5 rs rd) = 0b000#3 ++ op ++ offset5 := by
  apply BitVec.eq_of_getLsbD_eq
  intro i hi
  simp only [thumbIndex, encT1, BitVec.getLsbD_append, BitVec.getLsbD_extractLsb']
  interval_cases i <;> simp

theorem index_T2 (imm : Bool) (sub : Bool) (field : BitVec 3) (rs : Reg) (rd : Reg) :
    thumbIndex (encT2 imm sub field rs rd) = 0b00011#5 ++ BitVec.ofBool imm ++ BitVec.ofBool sub ++ field := by
  apply BitVec.eq_of_getLsbD_eq
  intro i hi
  simp only [thumbIndex, encT2, BitVec.getLsbD_append, BitVec.getLsbD_extractLsb']
  interval_cases i <;> simp

theorem index_T3 (op : BitVec 2) (rd : Reg) (imm8 : BitVec 8) :
    thumbIndex (encT3 op rd imm8) = 0b001#3 ++ op ++ reg3 rd ++ BitVec.extractLsb' 6 2 imm8 := by
  apply BitVec.eq_of_getLsbD_eq
  intro i hi
  simp only [thumbIndex, encT3, BitVec.getLsbD_append, BitVec.getLsbD_extractLsb']
  interval_cases i <;> simp

theorem index_T4 (op : BitVec 4) (rs : Reg) (rd : Reg) :
    thumbIndex (encT4 op rs rd) = 0b010000#6 ++ op := by
  apply BitVec.eq_of_getLsbD_eq
  intro i hi
  simp only [thumbIndex, encT4, BitVec.getLsbD_append, BitVec.getLsbD_extractLsb']
  interval_cases i <;> simp

theorem index_T5 (op : BitVec 2) (src : Reg) (dst : Reg) :
    thumbIndex (encT5 op src dst) = 0b010001#6 ++ op ++ BitVec.extractLsb' 3 1 dst ++ BitVec.extractLsb' 3 1 src := by
  apply BitVec.eq_of_getLsbD_eq
  intro i hi
  simp only [thumbIndex, encT5, BitVec.getLsbD_append, BitVec.getLsbD_extractLsb']
  interval_cases i <;> simp

theorem index_T5Bx (h1 : Bool) (src : Reg) :
    thumbIndex (encT5Bx h1 src) = 0b010001#6 ++ 0b11#2 ++ BitVec.ofBool h1 ++ BitVec.extractLsb' 3 1 src := by
  apply BitVec.eq_of_getLsbD_eq
  intro i hi
  simp only [thumbIndex, encT5Bx, BitVec.getLsbD_append, BitVec.getLsbD_extractLsb']
  interval_cases i <;> simp

theorem index_T6 (rd : Reg) (imm8 : BitVec 8) :
    thumbIndex (encT6 rd imm8) = 0b01001#5 ++ reg3 rd ++ BitVec.extractLsb' 6 2 imm8 := by
  apply BitVec.eq_of_getLsbD_eq
  intro i hi
  simp only [thumbIndex, encT6, BitVec.getLsbD_append, BitVec.getLsbD_extractLsb']
  interval_cases i <;> simp

theorem index_T7 (load : Bool) (byte : Bool) (ro : Reg) (rb : Reg) (rd : Reg) :
    thumbIndex (encT7 load byte ro rb rd) = 0b0101#4 ++ BitVec.ofBool load ++ BitVec.ofBool byte ++ 0b0#1 ++ reg3 ro := by
  apply BitVec.eq_of_getLsbD_eq
  intro i hi
  simp only [thumbIndex, encT7, BitVec.getLsbD_append, BitVec.getLsbD_extractLsb']
  interval_cases i <;> simp

theorem index_T8 (half : Bool) (signed : Bool) (ro : Reg) (rb : Reg) (rd : Reg) :
    thumbIndex (encT8 half signed ro rb rd) = 0b0101#4 ++ BitVec.ofBool half ++ BitVec.ofBool signed ++ 0b1#1 ++ reg3 ro := by
  apply BitVec.eq_of_getLsbD_eq
  intro i hi
  simp only [thumbIndex, encT8, BitVec.getLsbD_append, BitVec.getLsbD_extractLsb']
  interval_cases i <;> simp

theorem index_T9 (byte : Bool) (load : Bool) (offset5 : BitVec 5) (rb : Reg) (rd : Reg) :
    thumbIndex (encT9 byte load offset5 rb rd) = 0b011#3 ++ BitVec.ofBool byte ++ BitVec.ofBool load ++ offset5 := by
  apply BitVec.eq_of_getLsbD_eq
  intro i hi
  simp only [thumbIndex, encT9, BitVec.getLsbD_append, BitVec.getLsbD_extractLsb']
  interval_cases i <;> simp

theorem index_T10 (load : Bool) (offset5 : BitVec 5) (rb : Reg) (rd : Reg) :
    thumbIndex (encT10 load offset5 rb rd) = 0b1000#4 ++ BitVec.ofBool load ++ offset5 := by
  apply BitVec.eq_of_getLsbD_eq
  intro i hi
  simp only [thumbIndex, encT10, BitVec.getLsbD_append, BitVec.getLsbD_extractLsb']
  interval_cases i <;> simp

theorem index_T11 (load : Bool) (rd : Reg) (imm8 : BitVec 8) :
    thumbIndex (encT11 load rd imm8) = 0b1001#4 ++ BitVec.ofBool load ++ reg3 rd ++ BitVec.extractLsb' 6 2 imm8 := by
  apply BitVec.eq_of_getLsbD_eq
  intro i hi
  simp only [thumbIndex, encT11, BitVec.getLsbD_append, BitVec.getLsbD_extractLsb']
  interval_cases i <;> simp

theorem index_T12 (sp : Bool) (rd : Reg) (imm8 : BitVec 8) :
    thumbIndex (encT12 sp rd imm8) = 0b1010#4 ++ BitVec.ofBool sp ++ reg3 rd ++ BitVec.extractLsb' 6 2 imm8 := by
  apply BitVec.eq_of_getLsbD_eq
  intro i hi
  simp only [thumbIndex, encT12, BitVec.getLsbD_append, BitVec.getLsbD_extractLsb']
  interval_cases i <;> simp

theorem index_T13 (sub : Bool) (imm7 : BitVec 7) :
    thumbIndex (encT13 sub imm7) = 0b10110000#8 ++ BitVec.ofBool sub ++ BitVec.extractLsb' 6 1 imm7 := by
  apply BitVec.eq_of_getLsbD_eq
  intro i hi
  simp only [thumbIndex, encT13, BitVec.getLsbD_append, BitVec.getLsbD_extractLsb']
  interval_cases i <;> simp

theorem index_T14 (load : Bool) (r : Bool) (list : BitVec 8) :
    thumbIndex (encT14 load r list) = 0b1011#4 ++ BitVec.ofBool load ++ 0b10#2 ++ BitVec.ofBool r ++ BitVec.extractLsb' 6 2 list := by
  apply BitVec.eq_of_getLsbD_eq
  intro i hi
  simp only [thumbIndex, encT14, BitVec.getLsbD_append, BitVec.getLsbD_extractLsb']
  interval_cases i <;> simp

theorem index_T15 (load : Bool) (rb : Reg) (list : BitVec 8) :
    thumbIndex (encT15 load rb list) = 0b1100#4 ++ BitVec.ofBool load ++ reg3 rb ++ BitVec.extractLsb' 6 2 list := by
  apply BitVec.eq_of_getLsbD_eq
  intro i hi
  simp only [thumbIndex, encT15, BitVec.getLsbD_append, BitVec.getLsbD_extractLsb']
  interval_cases i <;> simp

theorem index_T16 (cond : BitVec 4) (soffset8 : BitVec 8) :
    thumbIndex (encT16 cond soffset8) = 0b1101#4 ++ cond ++ BitVec.extractLsb' 6 2 soffset8 := by
  apply BitVec.eq_of_getLsbD_eq
  intro i hi
  simp only [thumbIndex, encT16, BitVec.getLsbD_append, BitVec.getLsbD_extractLsb']
  interval_cases i <;> simp

theorem index_T17 (comment : BitVec 8) :
    thumbIndex (encT17 comment) = 0b11011111#8 ++ BitVec.extractLsb' 6 2 comment := by
  apply BitVec.eq_of_getLsbD_eq
  intro i hi
  simp only [thumbIndex, encT17, BitVec.getLsbD_append, BitVec.getLsbD_extractLsb']
  interval_cases i <;> simp

theorem index_T18 (offset11 : BitVec 11) :
    thumbIndex (encT18 offset11) = 0b11100#5 ++ BitVec.extractLsb' 6 5 offset11 := by
  apply BitVec.eq_of_getLsbD_eq
  intro i hi
  simp only [thumbIndex, encT18, BitVec.getLsbD_append, BitVec.getLsbD_extractLsb']
  interval_cases i <;> simp

theorem index_T19 (low : Bool) (offset11 : BitVec 11) :
    thumbIndex (encT19 low offset11) = 0b1111#4 ++ BitVec.ofBool low ++ BitVec.extractLsb' 6 5 offset11 := by
  apply BitVec.eq_of_getLsbD_eq
  intro i hi
  simp only [thumbIndex, encT19, BitVec.getLsbD_append, BitVec.getLsbD_extractLsb']
  interval_cases i <;> simp

/-! ## Every field is read back -/

theorem build_A1 (msk pat : Word) (mk : Cond → Bool → Reg → Reg → BitVec 5 → ShiftKind → Reg → Instr) (op : BitVec 4) (cond : Cond) (setFlags : Bool) (rn : Reg) (rd : Reg) (shiftImm : BitVec 5) (kind : ShiftKind) (rm : Reg) :
    (rowA1 msk pat mk).build (encA1 op cond setFlags rn rd shiftImm kind rm) = mk cond setFlags rn rd shiftImm kind rm := by
  simp only [rowA1, encA1]
  simp (disch := decide) only [BitVec.extractLsb'_append_eq_of_add_le, BitVec.extractLsb'_append_eq_of_le, getLsbD_append_low, getLsbD_append_high]
  simp

theorem build_A2 (msk pat : Word) (mk : Cond → Bool → Reg → Reg → Reg → ShiftKind → Reg → Instr) (op : BitVec 4) (cond : Cond) (setFlags : Bool) (rn : Reg) (rd : Reg) (rs : Reg) (kind : ShiftKind) (rm : Reg) :
    (rowA2 msk pat mk).build (encA2 op cond setFlags rn rd rs kind rm) = mk cond setFlags rn rd rs kind rm := by
  simp only [rowA2, encA2]
  simp (disch := decide) only [BitVec.extractLsb'_append_eq_of_add_le, BitVec.extractLsb'_append_eq_of_le, getLsbD_append_low, getLsbD_append_high]
  simp

theorem build_A3 (msk pat : Word) (mk : Cond → Bool → Reg → Reg → BitVec 4 → BitVec 8 → Instr) (op : BitVec 4) (cond : Cond) (setFlags : Bool) (rn : Reg) (rd : Reg) (rotate : BitVec 4) (imm8 : BitVec 8) :
    (rowA3 msk pat mk).build (encA3 op cond setFlags rn rd rotate imm8) = mk cond setFlags rn rd rotate imm8 := by
  simp only [rowA3, encA3]
  simp (disch := decide) only [BitVec.extractLsb'_append_eq_of_add_le, BitVec.extractLsb'_append_eq_of_le, getLsbD_append_low, getLsbD_append_high]
  simp

theorem build_A1t (msk pat : Word) (mk : Cond → Reg → Reg → BitVec 5 → ShiftKind → Reg → Instr) (op : BitVec 4) (cond : Cond) (setFlags : Bool) (rn : Reg) (rd : Reg) (shiftImm : BitVec 5) (kind : ShiftKind) (rm : Reg) :
    (rowA1t msk pat mk).build (encA1 op cond setFlags rn rd shiftImm kind rm) = mk cond rn rd shiftImm kind rm := by
  simp only [rowA1t, encA1]
  simp (disch := decide) only [BitVec.extractLsb'_append_eq_of_add_le, BitVec.extractLsb'_append_eq_of_le]
  simp

theorem build_A2t (msk pat : Word) (mk : Cond → Reg → Reg → Reg → ShiftKind → Reg → Instr) (op : BitVec 4) (cond : Cond) (setFlags : Bool) (rn : Reg) (rd : Reg) (rs : Reg) (kind : ShiftKind) (rm : Reg) :
    (rowA2t msk pat mk).build (encA2 op cond setFlags rn rd rs kind rm) = mk cond rn rd rs kind rm := by
  simp only [rowA2t, encA2]
  simp (disch := decide) only [BitVec.extractLsb'_append_eq_of_add_le, BitVec.extractLsb'_append_eq_of_le]
  simp

theorem build_A3t (msk pat : Word) (mk : Cond → Reg → Reg → BitVec 4 → BitVec 8 → Instr) (op : BitVec 4) (cond : Cond) (setFlags : Bool) (rn : Reg) (rd : Reg) (rotate : BitVec 4) (imm8 : BitVec 8) :
    (rowA3t msk pat mk).build (encA3 op cond setFlags rn rd rotate imm8) = mk cond rn rd rotate imm8 := by
  simp only [rowA3t, encA3]
  simp (disch := decide) only [BitVec.extractLsb'_append_eq_of_add_le, BitVec.extractLsb'_append_eq_of_le]
  simp

theorem build_A8 (msk pat : Word) (mk : Cond → Bool → Reg → Reg → Reg → Reg → Instr) (acc : Bool) (cond : Cond) (setFlags : Bool) (rd : Reg) (rn : Reg) (rs : Reg) (rm : Reg) :
    (rowA8 msk pat mk).build (encA8 acc cond setFlags rd rn rs rm) = mk cond setFlags rd rn rs rm := by
  simp only [rowA8, encA8]
  simp (disch := decide) only [BitVec.extractLsb'_append_eq_of_add_le, BitVec.extractLsb'_append_eq_of_le, getLsbD_append_low, getLsbD_append_high]
  simp

theorem build_A9 (msk pat : Word) (mk : Cond → Bool → Reg → Reg → Reg → Reg → Instr) (signed : Bool) (acc : Bool) (cond : Cond) (setFlags : Bool) (rdHi : Reg) (rdLo : Reg) (rs : Reg) (rm : Reg) :
    (rowA9 msk pat mk).build (encA9 signed acc cond setFlags rdHi rdLo rs rm) = mk cond setFlags rdHi rdLo rs rm := by
  simp only [rowA9, encA9]
  simp (disch := decide) only [BitVec.extractLsb'_append_eq_of_add_le, BitVec.extractLsb'_append_eq_of_le, getLsbD_append_low, getLsbD_append_high]
  simp

theorem build_A10 (msk pat : Word) (mk : Cond → Reg → Reg → Reg → Instr) (byte : Bool) (cond : Cond) (rn : Reg) (rd : Reg) (rm : Reg) :
    (rowA10 msk pat mk).build (encA10 byte cond rn rd rm) = mk cond rn rd rm := by
  simp only [rowA10, encA10]
  simp (disch := decide) only [BitVec.extractLsb'_append_eq_of_add_le, BitVec.extractLsb'_append_eq_of_le]
  simp

theorem build_A11 (msk pat : Word) (mk : Cond → Bool → Bool → Bool → Reg → Reg → Reg → Instr) (load : Bool) (signed : Bool) (half : Bool) (cond : Cond) (p : Bool) (u : Bool) (w : Bool) (rn : Reg) (rd : Reg) (rm : Reg) :
    (rowA11 msk pat mk).build (encA11 load signed half cond p u w rn rd rm) = mk cond p u w rn rd rm := by
  simp only [rowA11, encA11]
  simp (disch := decide) only [BitVec.extractLsb'_append_eq_of_add_le, BitVec.extractLsb'_append_eq_of_le, getLsbD_append_low, getLsbD_append_high]
  simp

theorem build_A12 (msk pat : Word) (mk : Cond → Bool → Bool → Bool → Reg → Reg → BitVec 4 → BitVec 4 → Instr) (load : Bool) (signed : Bool) (half : Bool) (cond : Cond) (p : Bool) (u : Bool) (w : Bool) (rn : Reg) (rd : Reg) (immH : BitVec 4) (immL : BitVec 4) :
    (rowA12 msk pat mk).build (encA12 load signed half cond p u w rn rd immH immL) = mk cond p u w rn rd immH immL := by
  simp only [rowA12, encA12]
  simp (disch := decide) only [BitVec.extractLsb'_append_eq_of_add_le, BitVec.extractLsb'_append_eq_of_le, getLsbD_append_low, getLsbD_append_high]
  simp

theorem build_A4 (msk pat : Word) (mk : Cond → Bool → Reg → Instr) (cond : Cond) (spsr : Bool) (rd : Reg) :
    (rowA4 msk pat mk).build (encA4 cond spsr rd) = mk cond spsr rd := by
  simp only [rowA4, encA4]
  simp (disch := decide) only [BitVec.extractLsb'_append_eq_of_add_le, BitVec.extractLsb'_append_eq_of_le, getLsbD_append_low, getLsbD_append_high]
  simp

theorem build_A5 (msk pat : Word) (mk : Cond → BitVec 4 → Reg → Instr) (spsr : Bool) (cond : Cond) (mask : BitVec 4) (rm : Reg) :
    (rowA5 msk pat mk).build (encA5 spsr cond mask rm) = mk cond mask rm := by
  simp only [rowA5, encA5]
  simp (disch := decide) only [BitVec.extractLsb'_append_eq_of_add_le, BitVec.extractLsb'_append_eq_of_le]
  simp

theorem build_A6 (msk pat : Word) (mk : Cond → BitVec 4 → BitVec 4 → BitVec 8 → Instr) (spsr : Bool) (cond : Cond) (mask : BitVec 4) (rotate : BitVec 4) (imm8 : BitVec 8) :
    (rowA6 msk pat mk).build (encA6 spsr cond mask rotate imm8) = mk cond mask rotate imm8 := by
  simp only [rowA6, encA6]
  simp (disch := decide) only [BitVec.extractLsb'_append_eq_of_add_le, BitVec.extractLsb'_append_eq_of_le]
  simp

theorem build_A7 (msk pat : Word) (mk : Cond → Reg → Instr) (cond : Cond) (rm : Reg) :
    (rowA7 msk pat mk).build (encA7 cond rm) = mk cond rm := by
  simp only [rowA7, encA7]
  simp (disch := decide) only [BitVec.extractLsb'_append_eq_of_add_le, BitVec.extractLsb'_append_eq_of_le]
  simp

theorem build_A13pre (msk pat : Word) (mk : Cond → Bool → Bool → Reg → Reg → BitVec 12 → Instr) (byte : Bool) (load : Bool) (cond : Cond) (p : Bool) (u : Bool) (w : Bool) (rn : Reg) (rd : Reg) (imm12 : BitVec 12) :
    (rowA13pre msk pat mk).build (encA13 byte load cond p u w rn rd imm12) = mk cond u w rn rd imm12 := by
  simp only [rowA13pre, encA13]
  simp (disch := decide) only [BitVec.extractLsb'_append_eq_of_add_le, BitVec.extractLsb'_append_eq_of_le, getLsbD_append_low, getLsbD_append_high]
  simp

theorem build_A13post (msk pat : Word) (mk : Cond → Bool → Reg → Reg → BitVec 12 → Instr) (byte : Bool) (load : Bool) (cond : Cond) (p : Bool) (u : Bool) (w : Bool) (rn : Reg) (rd : Reg) (imm12 : BitVec 12) :
    (rowA13post msk pat mk).build (encA13 byte load cond p u w rn rd imm12) = mk cond u rn rd imm12 := by
  simp only [rowA13post, encA13]
  simp (disch := decide) only [BitVec.extractLsb'_append_eq_of_add_le, BitVec.extractLsb'_append_eq_of_le, getLsbD_append_low, getLsbD_append_high]
  simp

theorem build_A14pre (msk pat : Word) (mk : Cond → Bool → Bool → Reg → Reg → BitVec 5 → ShiftKind → Reg → Instr) (byte : Bool) (load : Bool) (cond : Cond) (p : Bool) (u : Bool) (w : Bool) (rn : Reg) (rd : Reg) (shiftImm : BitVec 5) (kind : ShiftKind) (rm : Reg) :
    (rowA14pre msk pat mk).build (encA14 byte load cond p u w rn rd shiftImm kind rm) = mk cond u w rn rd shiftImm kind rm := by
  simp only [rowA14pre, encA14]
  simp (disch := decide) only [BitVec.extractLsb'_append_eq_of_add_le, BitVec.extractLsb'_append_eq_of_le, getLsbD_append_low, getLsbD_append_high]
  simp

theorem build_A14post (msk pat : Word) (mk : Cond → Bool → Reg → Reg → BitVec 5 → ShiftKind → Reg → Instr) (byte : Bool) (load : Bool) (cond : Cond) (p : Bool) (u : Bool) (w : Bool) (rn : Reg) (rd : Reg) (shiftImm : BitVec 5) (kind : ShiftKind) (rm : Reg) :
    (rowA14post msk pat mk).build (encA14 byte load cond p u w rn rd shiftImm kind rm) = mk cond u rn rd shiftImm kind rm := by
  simp only [rowA14post, encA14]
  simp (disch := decide) only [BitVec.extractLsb'_append_eq_of_add_le, BitVec.extractLsb'_append_eq_of_le, getLsbD_append_low, getLsbD_append_high]
  simp

theorem build_A15 (msk pat : Word) (mk : Cond → Bool → Bool → Bool → Bool → Reg → BitVec 16 → Instr) (load : Bool) (cond : Cond) (p : Bool) (u : Bool) (sBit : Bool) (w : Bool) (rn : Reg) (list : BitVec 16) :
    (rowA15 msk pat mk).build (encA15 load cond p u sBit w rn list) = mk cond p u sBit w rn list := by
  simp only [rowA15, encA15]
  simp (disch := decide) only [BitVec.extractLsb'_append_eq_of_add_le, BitVec.extractLsb'_append_eq_of_le, getLsbD_append_low, getLsbD_append_high]
  simp

theorem build_A16 (msk pat : Word) (mk : Cond → BitVec 24 → Instr) (link : Bool) (cond : Cond) (imm24 : BitVec 24) :
    (rowA16 msk pat mk).build (encA16 link cond imm24) = mk cond imm24 := by
  simp only [rowA16, encA16]
  simp (disch := decide) only [BitVec.extractLsb'_append_eq_of_add_le, BitVec.extractLsb'_append_eq_of_le]
  simp

theorem build_A17 (msk pat : Word) (mk : Cond → Bool → Bool → Bool → Bool → Reg → BitVec 4 → BitVec 4 → BitVec 8 → Instr) (load : Bool) (cond : Cond) (p : Bool) (u : Bool) (n : Bool) (w : Bool) (rn : Reg) (crd : BitVec 4) (cp : BitVec 4) (imm8 : BitVec 8) :
    (rowA17 msk pat mk).build (encA17 load cond p u n w rn crd cp imm8) = mk cond p u n w rn crd cp imm8 := by
  simp only [rowA17, encA17]
  simp (disch := decide) only [BitVec.extractLsb'_append_eq_of_add_le, BitVec.extractLsb'_append_eq_of_le, getLsbD_append_low, getLsbD_append_high]
  simp

theorem build_A18 (msk pat : Word) (mk : Cond → BitVec 4 → BitVec 4 → BitVec 4 → BitVec 4 → BitVec 3 → BitVec 4 → Instr) (cond : Cond) (opc1 : BitVec 4) (crn : BitVec 4) (crd : BitVec 4) (cp : BitVec 4) (opc2 : BitVec 3) (crm : BitVec 4) :
    (rowA18 msk pat mk).build (encA18 cond opc1 crn crd cp opc2 crm) = mk cond opc1 crn crd cp opc2 crm := by
  simp only [rowA18, encA18]
  simp (disch := decide) only [BitVec.extractLsb'_append_eq_of_add_le, BitVec.extractLsb'_append_eq_of_le]
  simp

theorem build_A19 (msk pat : Word) (mk : Cond → BitVec 3 → BitVec 4 → Reg → BitVec 4 → BitVec 3 → BitVec 4 → Instr) (load : Bool) (cond : Cond) (opc1 : BitVec 3) (crn : BitVec 4) (rd : Reg) (cp : BitVec 4) (opc2 : BitVec 3) (crm : BitVec 4) :
    (rowA19 msk pat mk).build (encA19 load cond opc1 crn rd cp opc2 crm) = mk cond opc1 crn rd cp opc2 crm := by
  simp only [rowA19, encA19]
  simp (disch := decide) only [BitVec.extractLsb'_append_eq_of_add_le, BitVec.extractLsb'_append_eq_of_le]
  simp

theorem build_A20 (msk pat : Word) (mk : Cond → BitVec 24 → Instr) (cond : Cond) (comment : BitVec 24) :
    (rowA20 msk pat mk).build (encA20 cond comment) = mk cond comment := by
  simp only [rowA20, encA20]
  simp (disch := decide) only [BitVec.extractLsb'_append_eq_of_add_le, BitVec.extractLsb'_append_eq_of_le]
  simp

theorem build_U (msk pat : Word) (mk : Cond → Instr) (low : BitVec 28) (cond : Cond) :
    (rowU msk pat mk).build (encUndef low cond) = mk cond := by
  simp only [rowU, encUndef]
  simp (disch := decide) only [BitVec.extractLsb'_append_eq_of_add_le, BitVec.extractLsb'_append_eq_of_le]
  simp

theorem build_T1 (msk pat : Half) (mk : BitVec 5 → Reg → Reg → Instr) (op : BitVec 2) (offset5 : BitVec 5) (rs : Reg) (rd : Reg) (h_rs : rs.isLow = true) (h_rd : rd.isLow = true) :
    (rowT1 msk pat mk).build (encT1 op offset5 rs rd) = mk offset5 rs rd := by
  simp only [rowT1, encT1, lowReg]
  simp (disch := decide) only [BitVec.extractLsb'_append_eq_of_add_le, BitVec.extractLsb'_append_eq_of_le]
  simp [reg3_setWidth, h_rs, h_rd]

theorem build_T2r (msk pat : Half) (mk : Reg → Reg → Reg → Instr) (imm : Bool) (sub : Bool) (rn : Reg) (rs : Reg) (rd : Reg) (h_rn : rn.isLow = true) (h_rs : rs.isLow = true) (h_rd : rd.isLow = true) :
    (rowT2r msk pat mk).build (encT2 imm sub (reg3 rn) rs rd) = mk rn rs rd := by
  simp only [rowT2r, encT2, lowReg]
  simp (disch := decide) only [BitVec.extractLsb'_append_eq_of_add_le, BitVec.extractLsb'_append_eq_of_le]
  simp [reg3_setWidth, h_rn, h_rs, h_rd]

theorem build_T2i (msk pat : Half) (mk : BitVec 3 → Reg → Reg → Instr) (imm : Bool) (sub : Bool) (field : BitVec 3) (rs : Reg) (rd : Reg) (h_rs : rs.isLow = true) (h_rd : rd.isLow = true) :
    (rowT2i msk pat mk).build (encT2 imm sub field rs rd) = mk field rs rd := by
  simp only [rowT2i, encT2, lowReg]
  simp (disch := decide) only [BitVec.extractLsb'_append_eq_of_add_le, BitVec.extractLsb'_append_eq_of_le]
  simp [reg3_setWidth, h_rs, h_rd]

theorem build_T3 (msk pat : Half) (mk : Reg → BitVec 8 → Instr) (op : BitVec 2) (rd : Reg) (imm8 : BitVec 8) (h_rd : rd.isLow = true) :
    (rowT3 msk pat mk).build (encT3 op rd imm8) = mk rd imm8 := by
  simp only [rowT3, encT3, lowReg]
  simp (disch := decide) only [BitVec.extractLsb'_append_eq_of_add_le, BitVec.extractLsb'_append_eq_of_le]
  simp [reg3_setWidth, h_rd]

theorem build_T4 (msk pat : Half) (mk : Reg → Reg → Instr) (op : BitVec 4) (rs : Reg) (rd : Reg) (h_rs : rs.isLow = true) (h_rd : rd.isLow = true) :
    (rowT4 msk pat mk).build (encT4 op rs rd) = mk rs rd := by
  simp only [rowT4, encT4, lowReg]
  simp (disch := decide) only [BitVec.extractLsb'_append_eq_of_add_le, BitVec.extractLsb'_append_eq_of_le]
  simp [reg3_setWidth, h_rs, h_rd]

theorem build_T5 (msk pat : Half) (mk : Reg → Reg → Instr) (op : BitVec 2) (src : Reg) (dst : Reg) :
    (rowT5 msk pat mk).build (encT5 op src dst) = mk src dst := by
  simp only [rowT5, encT5]
  simp (disch := decide) only [BitVec.extractLsb'_append_eq_of_add_le, BitVec.extractLsb'_append_eq_of_le]
  simp [reg_split, extract_split]

theorem build_T5bx (msk pat : Half) (mk : Bool → Reg → Instr) (h1 : Bool) (src : Reg) :
    (rowT5bx msk pat mk).build (encT5Bx h1 src) = mk h1 src := by
  simp only [rowT5bx, encT5Bx]
  simp (disch := decide) only [BitVec.extractLsb'_append_eq_of_add_le, BitVec.extractLsb'_append_eq_of_le, getLsbD_append_low, getLsbD_append_high]
  simp [extract_split]

theorem build_T6 (msk pat : Half) (mk : Reg → BitVec 8 → Instr) (rd : Reg) (imm8 : BitVec 8) (h_rd : rd.isLow = true) :
    (rowT6 msk pat mk).build (encT6 rd imm8) = mk rd imm8 := by
  simp only [rowT6, encT6, lowReg]
  simp (disch := decide) only [BitVec.extractLsb'_append_eq_of_add_le, BitVec.extractLsb'_append_eq_of_le]
  simp [reg3_setWidth, h_rd]

theorem build_T7 (msk pat : Half) (mk : Reg → Reg → Reg → Instr) (load : Bool) (byte : Bool) (ro : Reg) (rb : Reg) (rd : Reg) (h_ro : ro.isLow = true) (h_rb : rb.isLow = true) (h_rd : rd.isLow = true) :
    (rowT7 msk pat mk).build (encT7 load byte ro rb rd) = mk ro rb rd := by
  simp only [rowT7, encT7, lowReg]
  simp (disch := decide) only [BitVec.extractLsb'_append_eq_of_add_le, BitVec.extractLsb'_append_eq_of_le]
  simp [reg3_setWidth, h_ro, h_rb, h_rd]

theorem build_T8 (msk pat : Half) (mk : Reg → Reg → Reg → Instr) (half : Bool) (signed : Bool) (ro : Reg) (rb : Reg) (rd : Reg) (h_ro : ro.isLow = true) (h_rb : rb.isLow = true) (h_rd : rd.isLow = true) :
    (rowT8 msk pat mk).build (encT8 half signed ro rb rd) = mk ro rb rd := by
  simp only [rowT8, encT8, lowReg]
  simp (disch := decide) only [BitVec.extractLsb'_append_eq_of_add_le, BitVec.extractLsb'_append_eq_of_le]
  simp [reg3_setWidth, h_ro, h_rb, h_rd]

theorem build_T9 (msk pat : Half) (mk : BitVec 5 → Reg → Reg → Instr) (byte : Bool) (load : Bool) (offset5 : BitVec 5) (rb : Reg) (rd : Reg) (h_rb : rb.isLow = true) (h_rd : rd.isLow = true) :
    (rowT9 msk pat mk).build (encT9 byte load offset5 rb rd) = mk offset5 rb rd := by
  simp only [rowT9, encT9, lowReg]
  simp (disch := decide) only [BitVec.extractLsb'_append_eq_of_add_le, BitVec.extractLsb'_append_eq_of_le]
  simp [reg3_setWidth, h_rb, h_rd]

theorem build_T10 (msk pat : Half) (mk : BitVec 5 → Reg → Reg → Instr) (load : Bool) (offset5 : BitVec 5) (rb : Reg) (rd : Reg) (h_rb : rb.isLow = true) (h_rd : rd.isLow = true) :
    (rowT10 msk pat mk).build (encT10 load offset5 rb rd) = mk offset5 rb rd := by
  simp only [rowT10, encT10, lowReg]
  simp (disch := decide) only [BitVec.extractLsb'_append_eq_of_add_le, BitVec.extractLsb'_append_eq_of_le]
  simp [reg3_setWidth, h_rb, h_rd]

theorem build_T11 (msk pat : Half) (mk : Reg → BitVec 8 → Instr) (load : Bool) (rd : Reg) (imm8 : BitVec 8) (h_rd : rd.isLow = true) :
    (rowT11 msk pat mk).build (encT11 load rd imm8) = mk rd imm8 := by
  simp only [rowT11, encT11, lowReg]
  simp (disch := decide) only [BitVec.extractLsb'_append_eq_of_add_le, BitVec.extractLsb'_append_eq_of_le]
  simp [reg3_setWidth, h_rd]

theorem build_T12 (msk pat : Half) (mk : Reg → BitVec 8 → Instr) (sp : Bool) (rd : Reg) (imm8 : BitVec 8) (h_rd : rd.isLow = true) :
    (rowT12 msk pat mk).build (encT12 sp rd imm8) = mk rd imm8 := by
  simp only [rowT12, encT12, lowReg]
  simp (disch := decide) only [BitVec.extractLsb'_append_eq_of_add_le, BitVec.extractLsb'_append_eq_of_le]
  simp [reg3_setWidth, h_rd]

theorem build_T13 (msk pat : Half) (mk : BitVec 7 → Instr) (sub : Bool) (imm7 : BitVec 7) :
    (rowT13 msk pat mk).build (encT13 sub imm7) = mk imm7 := by
  simp only [rowT13, encT13]
  simp (disch := decide) only [BitVec.extractLsb'_append_eq_of_add_le, BitVec.extractLsb'_append_eq_of_le]
  simp

theorem build_T14push (msk pat : Half) (mk : Bool → BitVec 8 → Instr) (load : Bool) (r : Bool) (list : BitVec 8) :
    (rowT14push msk pat mk).build (encT14 load r list) = mk r list := by
  simp only [rowT14push, encT14]
  simp (disch := decide) only [BitVec.extractLsb'_append_eq_of_add_le, BitVec.extractLsb'_append_eq_of_le, getLsbD_append_low, getLsbD_append_high]
  simp

theorem build_T14pop (msk pat : Half) (mk : Bool → BitVec 8 → Instr) (load : Bool) (r : Bool) (list : BitVec 8) :
    (rowT14pop msk pat mk).build (encT14 load r list) = mk r list := by
  simp only [rowT14pop, encT14]
  simp (disch := decide) only [BitVec.extractLsb'_append_eq_of_add_le, BitVec.extractLsb'_append_eq_of_le, getLsbD_append_low, getLsbD_append_high]
  simp

theorem build_T15 (msk pat : Half) (mk : Reg → BitVec 8 → Instr) (load : Bool) (rb : Reg) (list : BitVec 8) (h_rb : rb.isLow = true) :
    (rowT15 msk pat mk).build (encT15 load rb list) = mk rb list := by
  simp only [rowT15, encT15, lowReg]
  simp (disch := decide) only [BitVec.extractLsb'_append_eq_of_add_le, BitVec.extractLsb'_append_eq_of_le]
  simp [reg3_setWidth, h_rb]

theorem build_T16 (msk pat : Half) (mk : BitVec 8 → Instr) (cond : BitVec 4) (soffset8 : BitVec 8) :
    (rowT16 msk pat mk).build (encT16 cond soffset8) = mk soffset8 := by
  simp only [rowT16, encT16]
  simp (disch := decide) only [BitVec.extractLsb'_append_eq_of_add_le, BitVec.extractLsb'_append_eq_of_le]
  simp

theorem build_T17 (msk pat : Half) (mk : BitVec 8 → Instr) (comment : BitVec 8) :
    (rowT17 msk pat mk).build (encT17 comment) = mk comment := by
  simp only [rowT17, encT17]
  simp (disch := decide) only [BitVec.extractLsb'_append_eq_of_add_le, BitVec.extractLsb'_append_eq_of_le]
  simp

theorem build_T18 (msk pat : Half) (mk : BitVec 11 → Instr) (offset11 : BitVec 11) :
    (rowT18 msk pat mk).build (encT18 offset11) = mk offset11 := by
  simp only [rowT18, encT18]
  simp (disch := decide) only [BitVec.extractLsb'_append_eq_of_add_le, BitVec.extractLsb'_append_eq_of_le]
  simp

theorem build_T19 (msk pat : Half) (mk : BitVec 11 → Instr) (low : Bool) (offset11 : BitVec 11) :
    (rowT19 msk pat mk).build (encT19 low offset11) = mk offset11 := by
  simp only [rowT19, encT19]
  simp (disch := decide) only [BitVec.extractLsb'_append_eq_of_add_le, BitVec.extractLsb'_append_eq_of_le]
  simp


/-- Rows of which no two overlap and some one matches: exactly one matches. -/
theorem filter_length_one {α : Type} {n : Nat} {rows : List α} (mask pattern : α → BitVec n)
    (hd : rows.Pairwise fun a b => (pattern a ^^^ pattern b) &&& mask a &&& mask b ≠ 0#n) {x : BitVec n}
    (h : ∃ r ∈ rows, x &&& mask r = pattern r) : (rows.filter fun r => x &&& mask r == pattern r).length = 1 := by
  have hp := hd.filter (fun r => x &&& mask r == pattern r)
  have hm : ∀ r ∈ rows.filter (fun r => x &&& mask r == pattern r), x &&& mask r = pattern r := by
    intro r hr
    simpa using (List.mem_filter.mp hr).2
  obtain ⟨r, hr, hr'⟩ := h
  have hpos : 0 < (rows.filter fun r => x &&& mask r == pattern r).length :=
    List.length_pos_of_mem (List.mem_filter.mpr ⟨hr, by simpa using hr'⟩)
  revert hp hm hpos
  generalize rows.filter (fun r => x &&& mask r == pattern r) = l
  intro hp hm hpos
  match l, hp, hm with
  | [], _, _ => simp at hpos
  | [a], _, _ => rfl
  | a :: b :: l, hp, hm =>
    exact absurd (match_agree (hm a (by simp)) (hm b (by simp))) ((List.pairwise_cons.mp hp).1 b (by simp))

/-! ## What the rows build -/

/-- A 3-bit field names a low register. -/
theorem isLow_lowReg (h : Half) (k : Nat) : (lowReg h k).isLow = true := by
  simp only [lowReg, Reg.isLow]
  generalize BitVec.extractLsb' k 3 h = x
  revert x
  decide

/-- Every row of the ARM table builds a well-formed ARM instruction. -/
theorem armRows_wf : ∀ r ∈ armRows, ∀ w, (r.build w).wf = true ∧ (r.build w).isThumb = false := by
  simp only [armRows, armRowsLogic, armRowsTest, armRowsMultiply, armRowsStatus, armRowsWord, armRowsByte, armRowsBlock,
    armRowsUndefined, List.forall_mem_append, List.forall_mem_cons]
  simp [rowA1, rowA2, rowA3, rowA1t, rowA2t, rowA3t, rowA8, rowA9, rowA10, rowA11, rowA12, rowA4, rowA5, rowA6, rowA7,
    rowA13pre, rowA13post, rowA14pre, rowA14post, rowA15, rowA16, rowA17, rowA18, rowA19, rowA20, rowU, Instr.wf,
    Instr.isThumb]

/-- Every row of the Thumb table builds a well-formed Thumb instruction. -/
theorem thumbRows_wf : ∀ r ∈ thumbRows, ∀ h, (r.build h).wf = true ∧ (r.build h).isThumb = true := by
  simp only [thumbRows, thumbRowsAlu, thumbRowsHigh, thumbRowsTransfer, thumbRowsBranch, thumbRowsUndefined,
    List.forall_mem_append, List.forall_mem_cons]
  simp [rowT1, rowT2r, rowT2i, rowT3, rowT4, rowT5, rowT5bx, rowT6, rowT7, rowT8, rowT9, rowT10, rowT11, rowT12, rowT13,
    rowT14push, rowT14pop, rowT15, rowT16, rowT17, rowT18, rowT19, rowTU, Instr.wf, Instr.isThumb, isLow_lowReg]

/-- An instruction's code is a word or a halfword, by its set (R60). -/
theorem encode_width (i : Instr) :
    ((∃ w, encode i = .arm w) ∧ i.isThumb = false) ∨ ((∃ h, encode i = .thumb h) ∧ i.isThumb = true) := by
  cases i <;> simp [encode, Instr.isThumb]

end Sys2Proof
end

