-- ==== Sys2Proof/Laws/PerInstr.lean ====
section
/-! SUPPORT. Statements made for every instruction, one lemma per constructor. `RoundTrip`: a well-formed instruction's code decodes
to that instruction, every operand at every value (spec/30_encoding.md R60, R63, R67). -/

namespace Sys2Proof.Laws

set_option Elab.async false

/-- The code of a well-formed instruction decodes to it. -/
def RoundTrip.Statement (i : Instr) : Prop := i.wf = true → (encode i).decode = some i

theorem RoundTrip.andShiftImm (cond : Cond) (setFlags : Bool) (rn : Reg) (rd : Reg) (shiftImm : BitVec 5) (kind : ShiftKind) (rm : Reg) :
    Statement (.andShiftImm cond setFlags rn rd shiftImm kind rm) := by
  intro _
  refine (decodeArm_of 0 rfl ?_).trans (congrArg some ?_)
  · rw [index_A1]
    exact (by decide +kernel : ∀ (x0 : BitVec 1) (x1 : BitVec 1) (x2 : BitVec 2),
      armSpread (0b000#3 ++ 0b0000#4 ++ x0 ++ x1 ++ x2 ++ 0b0#1) &&& 0x0FE00010#32 = 0x00000000#32) _ _ _
  · apply build_A1

theorem RoundTrip.andShiftReg (cond : Cond) (setFlags : Bool) (rn : Reg) (rd : Reg) (rs : Reg) (kind : ShiftKind) (rm : Reg) :
    Statement (.andShiftReg cond setFlags rn rd rs kind rm) := by
  intro _
  refine (decodeArm_of 1 rfl ?_).trans (congrArg some ?_)
  · rw [index_A2]
    exact (by decide +kernel : ∀ (x0 : BitVec 1) (x1 : BitVec 2),
      armSpread (0b000#3 ++ 0b0000#4 ++ x0 ++ 0b0#1 ++ x1 ++ 0b1#1) &&& 0x0FE00090#32 = 0x00000010#32) _ _
  · apply build_A2

theorem RoundTrip.andImm (cond : Cond) (setFlags : Bool) (rn : Reg) (rd : Reg) (rotate : BitVec 4) (imm8 : BitVec 8) :
    Statement (.andImm cond setFlags rn rd rotate imm8) := by
  intro _
  refine (decodeArm_of 2 rfl ?_).trans (congrArg some ?_)
  · rw [index_A3]
    exact (by decide +kernel : ∀ (x0 : BitVec 1) (x1 : BitVec 4),
      armSpread (0b001#3 ++ 0b0000#4 ++ x0 ++ x1) &&& 0x0FE00000#32 = 0x02000000#32) _ _
  · apply build_A3

theorem RoundTrip.eorShiftImm (cond : Cond) (setFlags : Bool) (rn : Reg) (rd : Reg) (shiftImm : BitVec 5) (kind : ShiftKind) (rm : Reg) :
    Statement (.eorShiftImm cond setFlags rn rd shiftImm kind rm) := by
  intro _
  refine (decodeArm_of 3 rfl ?_).trans (congrArg some ?_)
  · rw [index_A1]
    exact (by decide +kernel : ∀ (x0 : BitVec 1) (x1 : BitVec 1) (x2 : BitVec 2),
      armSpread (0b000#3 ++ 0b0001#4 ++ x0 ++ x1 ++ x2 ++ 0b0#1) &&& 0x0FE00010#32 = 0x00200000#32) _ _ _
  · apply build_A1

theorem RoundTrip.eorShiftReg (cond : Cond) (setFlags : Bool) (rn : Reg) (rd : Reg) (rs : Reg) (kind : ShiftKind) (rm : Reg) :
    Statement (.eorShiftReg cond setFlags rn rd rs kind rm) := by
  intro _
  refine (decodeArm_of 4 rfl ?_).trans (congrArg some ?_)
  · rw [index_A2]
    exact (by decide +kernel : ∀ (x0 : BitVec 1) (x1 : BitVec 2),
      armSpread (0b000#3 ++ 0b0001#4 ++ x0 ++ 0b0#1 ++ x1 ++ 0b1#1) &&& 0x0FE00090#32 = 0x00200010#32) _ _
  · apply build_A2

theorem RoundTrip.eorImm (cond : Cond) (setFlags : Bool) (rn : Reg) (rd : Reg) (rotate : BitVec 4) (imm8 : BitVec 8) :
    Statement (.eorImm cond setFlags rn rd rotate imm8) := by
  intro _
  refine (decodeArm_of 5 rfl ?_).trans (congrArg some ?_)
  · rw [index_A3]
    exact (by decide +kernel : ∀ (x0 : BitVec 1) (x1 : BitVec 4),
      armSpread (0b001#3 ++ 0b0001#4 ++ x0 ++ x1) &&& 0x0FE00000#32 = 0x02200000#32) _ _
  · apply build_A3

theorem RoundTrip.subShiftImm (cond : Cond) (setFlags : Bool) (rn : Reg) (rd : Reg) (shiftImm : BitVec 5) (kind : ShiftKind) (rm : Reg) :
    Statement (.subShiftImm cond setFlags rn rd shiftImm kind rm) := by
  intro _
  refine (decodeArm_of 6 rfl ?_).trans (congrArg some ?_)
  · rw [index_A1]
    exact (by decide +kernel : ∀ (x0 : BitVec 1) (x1 : BitVec 1) (x2 : BitVec 2),
      armSpread (0b000#3 ++ 0b0010#4 ++ x0 ++ x1 ++ x2 ++ 0b0#1) &&& 0x0FE00010#32 = 0x00400000#32) _ _ _
  · apply build_A1

theorem RoundTrip.subShiftReg (cond : Cond) (setFlags : Bool) (rn : Reg) (rd : Reg) (rs : Reg) (kind : ShiftKind) (rm : Reg) :
    Statement (.subShiftReg cond setFlags rn rd rs kind rm) := by
  intro _
  refine (decodeArm_of 7 rfl ?_).trans (congrArg some ?_)
  · rw [index_A2]
    exact (by decide +kernel : ∀ (x0 : BitVec 1) (x1 : BitVec 2),
      armSpread (0b000#3 ++ 0b0010#4 ++ x0 ++ 0b0#1 ++ x1 ++ 0b1#1) &&& 0x0FE00090#32 = 0x00400010#32) _ _
  · apply build_A2

theorem RoundTrip.subImm (cond : Cond) (setFlags : Bool) (rn : Reg) (rd : Reg) (rotate : BitVec 4) (imm8 : BitVec 8) :
    Statement (.subImm cond setFlags rn rd rotate imm8) := by
  intro _
  refine (decodeArm_of 8 rfl ?_).trans (congrArg some ?_)
  · rw [index_A3]
    exact (by decide +kernel : ∀ (x0 : BitVec 1) (x1 : BitVec 4),
      armSpread (0b001#3 ++ 0b0010#4 ++ x0 ++ x1) &&& 0x0FE00000#32 = 0x02400000#32) _ _
  · apply build_A3

theorem RoundTrip.rsbShiftImm (cond : Cond) (setFlags : Bool) (rn : Reg) (rd : Reg) (shiftImm : BitVec 5) (kind : ShiftKind) (rm : Reg) :
    Statement (.rsbShiftImm cond setFlags rn rd shiftImm kind rm) := by
  intro _
  refine (decodeArm_of 9 rfl ?_).trans (congrArg some ?_)
  · rw [index_A1]
    exact (by decide +kernel : ∀ (x0 : BitVec 1) (x1 : BitVec 1) (x2 : BitVec 2),
      armSpread (0b000#3 ++ 0b0011#4 ++ x0 ++ x1 ++ x2 ++ 0b0#1) &&& 0x0FE00010#32 = 0x00600000#32) _ _ _
  · apply build_A1

theorem RoundTrip.rsbShiftReg (cond : Cond) (setFlags : Bool) (rn : Reg) (rd : Reg) (rs : Reg) (kind : ShiftKind) (rm : Reg) :
    Statement (.rsbShiftReg cond setFlags rn rd rs kind rm) := by
  intro _
  refine (decodeArm_of 10 rfl ?_).trans (congrArg some ?_)
  · rw [index_A2]
    exact (by decide +kernel : ∀ (x0 : BitVec 1) (x1 : BitVec 2),
      armSpread (0b000#3 ++ 0b0011#4 ++ x0 ++ 0b0#1 ++ x1 ++ 0b1#1) &&& 0x0FE00090#32 = 0x00600010#32) _ _
  · apply build_A2

theorem RoundTrip.rsbImm (cond : Cond) (setFlags : Bool) (rn : Reg) (rd : Reg) (rotate : BitVec 4) (imm8 : BitVec 8) :
    Statement (.rsbImm cond setFlags rn rd rotate imm8) := by
  intro _
  refine (decodeArm_of 11 rfl ?_).trans (congrArg some ?_)
  · rw [index_A3]
    exact (by decide +kernel : ∀ (x0 : BitVec 1) (x1 : BitVec 4),
      armSpread (0b001#3 ++ 0b0011#4 ++ x0 ++ x1) &&& 0x0FE00000#32 = 0x02600000#32) _ _
  · apply build_A3

theorem RoundTrip.addShiftImm (cond : Cond) (setFlags : Bool) (rn : Reg) (rd : Reg) (shiftImm : BitVec 5) (kind : ShiftKind) (rm : Reg) :
    Statement (.addShiftImm cond setFlags rn rd shiftImm kind rm) := by
  intro _
  refine (decodeArm_of 12 rfl ?_).trans (congrArg some ?_)
  · rw [index_A1]
    exact (by decide +kernel : ∀ (x0 : BitVec 1) (x1 : BitVec 1) (x2 : BitVec 2),
      armSpread (0b000#3 ++ 0b0100#4 ++ x0 ++ x1 ++ x2 ++ 0b0#1) &&& 0x0FE00010#32 = 0x00800000#32) _ _ _
  · apply build_A1

theorem RoundTrip.addShiftReg (cond : Cond) (setFlags : Bool) (rn : Reg) (rd : Reg) (rs : Reg) (kind : ShiftKind) (rm : Reg) :
    Statement (.addShiftReg cond setFlags rn rd rs kind rm) := by
  intro _
  refine (decodeArm_of 13 rfl ?_).trans (congrArg some ?_)
  · rw [index_A2]
    exact (by decide +kernel : ∀ (x0 : BitVec 1) (x1 : BitVec 2),
      armSpread (0b000#3 ++ 0b0100#4 ++ x0 ++ 0b0#1 ++ x1 ++ 0b1#1) &&& 0x0FE00090#32 = 0x00800010#32) _ _
  · apply build_A2

theorem RoundTrip.addImm (cond : Cond) (setFlags : Bool) (rn : Reg) (rd : Reg) (rotate : BitVec 4) (imm8 : BitVec 8) :
    Statement (.addImm cond setFlags rn rd rotate imm8) := by
  intro _
  refine (decodeArm_of 14 rfl ?_).trans (congrArg some ?_)
  · rw [index_A3]
    exact (by decide +kernel : ∀ (x0 : BitVec 1) (x1 : BitVec 4),
      armSpread (0b001#3 ++ 0b0100#4 ++ x0 ++ x1) &&& 0x0FE00000#32 = 0x02800000#32) _ _
  · apply build_A3

theorem RoundTrip.adcShiftImm (cond : Cond) (setFlags : Bool) (rn : Reg) (rd : Reg) (shiftImm : BitVec 5) (kind : ShiftKind) (rm : Reg) :
    Statement (.adcShiftImm cond setFlags rn rd shiftImm kind rm) := by
  intro _
  refine (decodeArm_of 15 rfl ?_).trans (congrArg some ?_)
  · rw [index_A1]
    exact (by decide +kernel : ∀ (x0 : BitVec 1) (x1 : BitVec 1) (x2 : BitVec 2),
      armSpread (0b000#3 ++ 0b0101#4 ++ x0 ++ x1 ++ x2 ++ 0b0#1) &&& 0x0FE00010#32 = 0x00A00000#32) _ _ _
  · apply build_A1

theorem RoundTrip.adcShiftReg (cond : Cond) (setFlags : Bool) (rn : Reg) (rd : Reg) (rs : Reg) (kind : ShiftKind) (rm : Reg) :
    Statement (.adcShiftReg cond setFlags rn rd rs kind rm) := by
  intro _
  refine (decodeArm_of 16 rfl ?_).trans (congrArg some ?_)
  · rw [index_A2]
    exact (by decide +kernel : ∀ (x0 : BitVec 1) (x1 : BitVec 2),
      armSpread (0b000#3 ++ 0b0101#4 ++ x0 ++ 0b0#1 ++ x1 ++ 0b1#1) &&& 0x0FE00090#32 = 0x00A00010#32) _ _
  · apply build_A2

theorem RoundTrip.adcImm (cond : Cond) (setFlags : Bool) (rn : Reg) (rd : Reg) (rotate : BitVec 4) (imm8 : BitVec 8) :
    Statement (.adcImm cond setFlags rn rd rotate imm8) := by
  intro _
  refine (decodeArm_of 17 rfl ?_).trans (congrArg some ?_)
  · rw [index_A3]
    exact (by decide +kernel : ∀ (x0 : BitVec 1) (x1 : BitVec 4),
      armSpread (0b001#3 ++ 0b0101#4 ++ x0 ++ x1) &&& 0x0FE00000#32 = 0x02A00000#32) _ _
  · apply build_A3

theorem RoundTrip.sbcShiftImm (cond : Cond) (setFlags : Bool) (rn : Reg) (rd : Reg) (shiftImm : BitVec 5) (kind : ShiftKind) (rm : Reg) :
    Statement (.sbcShiftImm cond setFlags rn rd shiftImm kind rm) := by
  intro _
  refine (decodeArm_of 18 rfl ?_).trans (congrArg some ?_)
  · rw [index_A1]
    exact (by decide +kernel : ∀ (x0 : BitVec 1) (x1 : BitVec 1) (x2 : BitVec 2),
      armSpread (0b000#3 ++ 0b0110#4 ++ x0 ++ x1 ++ x2 ++ 0b0#1) &&& 0x0FE00010#32 = 0x00C00000#32) _ _ _
  · apply build_A1

theorem RoundTrip.sbcShiftReg (cond : Cond) (setFlags : Bool) (rn : Reg) (rd : Reg) (rs : Reg) (kind : ShiftKind) (rm : Reg) :
    Statement (.sbcShiftReg cond setFlags rn rd rs kind rm) := by
  intro _
  refine (decodeArm_of 19 rfl ?_).trans (congrArg some ?_)
  · rw [index_A2]
    exact (by decide +kernel : ∀ (x0 : BitVec 1) (x1 : BitVec 2),
      armSpread (0b000#3 ++ 0b0110#4 ++ x0 ++ 0b0#1 ++ x1 ++ 0b1#1) &&& 0x0FE00090#32 = 0x00C00010#32) _ _
  · apply build_A2

theorem RoundTrip.sbcImm (cond : Cond) (setFlags : Bool) (rn : Reg) (rd : Reg) (rotate : BitVec 4) (imm8 : BitVec 8) :
    Statement (.sbcImm cond setFlags rn rd rotate imm8) := by
  intro _
  refine (decodeArm_of 20 rfl ?_).trans (congrArg some ?_)
  · rw [index_A3]
    exact (by decide +kernel : ∀ (x0 : BitVec 1) (x1 : BitVec 4),
      armSpread (0b001#3 ++ 0b0110#4 ++ x0 ++ x1) &&& 0x0FE00000#32 = 0x02C00000#32) _ _
  · apply build_A3

theorem RoundTrip.rscShiftImm (cond : Cond) (setFlags : Bool) (rn : Reg) (rd : Reg) (shiftImm : BitVec 5) (kind : ShiftKind) (rm : Reg) :
    Statement (.rscShiftImm cond setFlags rn rd shiftImm kind rm) := by
  intro _
  refine (decodeArm_of 21 rfl ?_).trans (congrArg some ?_)
  · rw [index_A1]
    exact (by decide +kernel : ∀ (x0 : BitVec 1) (x1 : BitVec 1) (x2 : BitVec 2),
      armSpread (0b000#3 ++ 0b0111#4 ++ x0 ++ x1 ++ x2 ++ 0b0#1) &&& 0x0FE00010#32 = 0x00E00000#32) _ _ _
  · apply build_A1

theorem RoundTrip.rscShiftReg (cond : Cond) (setFlags : Bool) (rn : Reg) (rd : Reg) (rs : Reg) (kind : ShiftKind) (rm : Reg) :
    Statement (.rscShiftReg cond setFlags rn rd rs kind rm) := by
  intro _
  refine (decodeArm_of 22 rfl ?_).trans (congrArg some ?_)
  · rw [index_A2]
    exact (by decide +kernel : ∀ (x0 : BitVec 1) (x1 : BitVec 2),
      armSpread (0b000#3 ++ 0b0111#4 ++ x0 ++ 0b0#1 ++ x1 ++ 0b1#1) &&& 0x0FE00090#32 = 0x00E00010#32) _ _
  · apply build_A2

theorem RoundTrip.rscImm (cond : Cond) (setFlags : Bool) (rn : Reg) (rd : Reg) (rotate : BitVec 4) (imm8 : BitVec 8) :
    Statement (.rscImm cond setFlags rn rd rotate imm8) := by
  intro _
  refine (decodeArm_of 23 rfl ?_).trans (congrArg some ?_)
  · rw [index_A3]
    exact (by decide +kernel : ∀ (x0 : BitVec 1) (x1 : BitVec 4),
      armSpread (0b001#3 ++ 0b0111#4 ++ x0 ++ x1) &&& 0x0FE00000#32 = 0x02E00000#32) _ _
  · apply build_A3

theorem RoundTrip.tstShiftImm (cond : Cond) (rn : Reg) (rd : Reg) (shiftImm : BitVec 5) (kind : ShiftKind) (rm : Reg) :
    Statement (.tstShiftImm cond rn rd shiftImm kind rm) := by
  intro _
  refine (decodeArm_of 24 rfl ?_).trans (congrArg some ?_)
  · rw [index_A1]
    exact (by decide +kernel : ∀ (x0 : BitVec 1) (x1 : BitVec 2),
      armSpread (0b000#3 ++ 0b1000#4 ++ (BitVec.ofBool true) ++ x0 ++ x1 ++ 0b0#1) &&& 0x0FF00010#32 = 0x01100000#32) _ _
  · apply build_A1t

theorem RoundTrip.tstShiftReg (cond : Cond) (rn : Reg) (rd : Reg) (rs : Reg) (kind : ShiftKind) (rm : Reg) :
    Statement (.tstShiftReg cond rn rd rs kind rm) := by
  intro _
  refine (decodeArm_of 25 rfl ?_).trans (congrArg some ?_)
  · rw [index_A2]
    exact (by decide +kernel : ∀ (x0 : BitVec 2),
      armSpread (0b000#3 ++ 0b1000#4 ++ (BitVec.ofBool true) ++ 0b0#1 ++ x0 ++ 0b1#1) &&& 0x0FF00090#32 = 0x01100010#32) _
  · apply build_A2t

theorem RoundTrip.tstImm (cond : Cond) (rn : Reg) (rd : Reg) (rotate : BitVec 4) (imm8 : BitVec 8) :
    Statement (.tstImm cond rn rd rotate imm8) := by
  intro _
  refine (decodeArm_of 26 rfl ?_).trans (congrArg some ?_)
  · rw [index_A3]
    exact (by decide +kernel : ∀ (x0 : BitVec 4),
      armSpread (0b001#3 ++ 0b1000#4 ++ (BitVec.ofBool true) ++ x0) &&& 0x0FF00000#32 = 0x03100000#32) _
  · apply build_A3t

theorem RoundTrip.teqShiftImm (cond : Cond) (rn : Reg) (rd : Reg) (shiftImm : BitVec 5) (kind : ShiftKind) (rm : Reg) :
    Statement (.teqShiftImm cond rn rd shiftImm kind rm) := by
  intro _
  refine (decodeArm_of 27 rfl ?_).trans (congrArg some ?_)
  · rw [index_A1]
    exact (by decide +kernel : ∀ (x0 : BitVec 1) (x1 : BitVec 2),
      armSpread (0b000#3 ++ 0b1001#4 ++ (BitVec.ofBool true) ++ x0 ++ x1 ++ 0b0#1) &&& 0x0FF00010#32 = 0x01300000#32) _ _
  · apply build_A1t

theorem RoundTrip.teqShiftReg (cond : Cond) (rn : Reg) (rd : Reg) (rs : Reg) (kind : ShiftKind) (rm : Reg) :
    Statement (.teqShiftReg cond rn rd rs kind rm) := by
  intro _
  refine (decodeArm_of 28 rfl ?_).trans (congrArg some ?_)
  · rw [index_A2]
    exact (by decide +kernel : ∀ (x0 : BitVec 2),
      armSpread (0b000#3 ++ 0b1001#4 ++ (BitVec.ofBool true) ++ 0b0#1 ++ x0 ++ 0b1#1) &&& 0x0FF00090#32 = 0x01300010#32) _
  · apply build_A2t

theorem RoundTrip.teqImm (cond : Cond) (rn : Reg) (rd : Reg) (rotate : BitVec 4) (imm8 : BitVec 8) :
    Statement (.teqImm cond rn rd rotate imm8) := by
  intro _
  refine (decodeArm_of 29 rfl ?_).trans (congrArg some ?_)
  · rw [index_A3]
    exact (by decide +kernel : ∀ (x0 : BitVec 4),
      armSpread (0b001#3 ++ 0b1001#4 ++ (BitVec.ofBool true) ++ x0) &&& 0x0FF00000#32 = 0x03300000#32) _
  · apply build_A3t

theorem RoundTrip.cmpShiftImm (cond : Cond) (rn : Reg) (rd : Reg) (shiftImm : BitVec 5) (kind : ShiftKind) (rm : Reg) :
    Statement (.cmpShiftImm cond rn rd shiftImm kind rm) := by
  intro _
  refine (decodeArm_of 30 rfl ?_).trans (congrArg some ?_)
  · rw [index_A1]
    exact (by decide +kernel : ∀ (x0 : BitVec 1) (x1 : BitVec 2),
      armSpread (0b000#3 ++ 0b1010#4 ++ (BitVec.ofBool true) ++ x0 ++ x1 ++ 0b0#1) &&& 0x0FF00010#32 = 0x01500000#32) _ _
  · apply build_A1t

theorem RoundTrip.cmpShiftReg (cond : Cond) (rn : Reg) (rd : Reg) (rs : Reg) (kind : ShiftKind) (rm : Reg) :
    Statement (.cmpShiftReg cond rn rd rs kind rm) := by
  intro _
  refine (decodeArm_of 31 rfl ?_).trans (congrArg some ?_)
  · rw [index_A2]
    exact (by decide +kernel : ∀ (x0 : BitVec 2),
      armSpread (0b000#3 ++ 0b1010#4 ++ (BitVec.ofBool true) ++ 0b0#1 ++ x0 ++ 0b1#1) &&& 0x0FF00090#32 = 0x01500010#32) _
  · apply build_A2t

theorem RoundTrip.cmpImm (cond : Cond) (rn : Reg) (rd : Reg) (rotate : BitVec 4) (imm8 : BitVec 8) :
    Statement (.cmpImm cond rn rd rotate imm8) := by
  intro _
  refine (decodeArm_of 32 rfl ?_).trans (congrArg some ?_)
  · rw [index_A3]
    exact (by decide +kernel : ∀ (x0 : BitVec 4),
      armSpread (0b001#3 ++ 0b1010#4 ++ (BitVec.ofBool true) ++ x0) &&& 0x0FF00000#32 = 0x03500000#32) _
  · apply build_A3t

theorem RoundTrip.cmnShiftImm (cond : Cond) (rn : Reg) (rd : Reg) (shiftImm : BitVec 5) (kind : ShiftKind) (rm : Reg) :
    Statement (.cmnShiftImm cond rn rd shiftImm kind rm) := by
  intro _
  refine (decodeArm_of 33 rfl ?_).trans (congrArg some ?_)
  · rw [index_A1]
    exact (by decide +kernel : ∀ (x0 : BitVec 1) (x1 : BitVec 2),
      armSpread (0b000#3 ++ 0b1011#4 ++ (BitVec.ofBool true) ++ x0 ++ x1 ++ 0b0#1) &&& 0x0FF00010#32 = 0x01700000#32) _ _
  · apply build_A1t

theorem RoundTrip.cmnShiftReg (cond : Cond) (rn : Reg) (rd : Reg) (rs : Reg) (kind : ShiftKind) (rm : Reg) :
    Statement (.cmnShiftReg cond rn rd rs kind rm) := by
  intro _
  refine (decodeArm_of 34 rfl ?_).trans (congrArg some ?_)
  · rw [index_A2]
    exact (by decide +kernel : ∀ (x0 : BitVec 2),
      armSpread (0b000#3 ++ 0b1011#4 ++ (BitVec.ofBool true) ++ 0b0#1 ++ x0 ++ 0b1#1) &&& 0x0FF00090#32 = 0x01700010#32) _
  · apply build_A2t

theorem RoundTrip.cmnImm (cond : Cond) (rn : Reg) (rd : Reg) (rotate : BitVec 4) (imm8 : BitVec 8) :
    Statement (.cmnImm cond rn rd rotate imm8) := by
  intro _
  refine (decodeArm_of 35 rfl ?_).trans (congrArg some ?_)
  · rw [index_A3]
    exact (by decide +kernel : ∀ (x0 : BitVec 4),
      armSpread (0b001#3 ++ 0b1011#4 ++ (BitVec.ofBool true) ++ x0) &&& 0x0FF00000#32 = 0x03700000#32) _
  · apply build_A3t

theorem RoundTrip.orrShiftImm (cond : Cond) (setFlags : Bool) (rn : Reg) (rd : Reg) (shiftImm : BitVec 5) (kind : ShiftKind) (rm : Reg) :
    Statement (.orrShiftImm cond setFlags rn rd shiftImm kind rm) := by
  intro _
  refine (decodeArm_of 36 rfl ?_).trans (congrArg some ?_)
  · rw [index_A1]
    exact (by decide +kernel : ∀ (x0 : BitVec 1) (x1 : BitVec 1) (x2 : BitVec 2),
      armSpread (0b000#3 ++ 0b1100#4 ++ x0 ++ x1 ++ x2 ++ 0b0#1) &&& 0x0FE00010#32 = 0x01800000#32) _ _ _
  · apply build_A1

theorem RoundTrip.orrShiftReg (cond : Cond) (setFlags : Bool) (rn : Reg) (rd : Reg) (rs : Reg) (kind : ShiftKind) (rm : Reg) :
    Statement (.orrShiftReg cond setFlags rn rd rs kind rm) := by
  intro _
  refine (decodeArm_of 37 rfl ?_).trans (congrArg some ?_)
  · rw [index_A2]
    exact (by decide +kernel : ∀ (x0 : BitVec 1) (x1 : BitVec 2),
      armSpread (0b000#3 ++ 0b1100#4 ++ x0 ++ 0b0#1 ++ x1 ++ 0b1#1) &&& 0x0FE00090#32 = 0x01800010#32) _ _
  · apply build_A2

theorem RoundTrip.orrImm (cond : Cond) (setFlags : Bool) (rn : Reg) (rd : Reg) (rotate : BitVec 4) (imm8 : BitVec 8) :
    Statement (.orrImm cond setFlags rn rd rotate imm8) := by
  intro _
  refine (decodeArm_of 38 rfl ?_).trans (congrArg some ?_)
  · rw [index_A3]
    exact (by decide +kernel : ∀ (x0 : BitVec 1) (x1 : BitVec 4),
      armSpread (0b001#3 ++ 0b1100#4 ++ x0 ++ x1) &&& 0x0FE00000#32 = 0x03800000#32) _ _
  · apply build_A3

theorem RoundTrip.movShiftImm (cond : Cond) (setFlags : Bool) (rn : Reg) (rd : Reg) (shiftImm : BitVec 5) (kind : ShiftKind) (rm : Reg) :
    Statement (.movShiftImm cond setFlags rn rd shiftImm kind rm) := by
  intro _
  refine (decodeArm_of 39 rfl ?_).trans (congrArg some ?_)
  · rw [index_A1]
    exact (by decide +kernel : ∀ (x0 : BitVec 1) (x1 : BitVec 1) (x2 : BitVec 2),
      armSpread (0b000#3 ++ 0b1101#4 ++ x0 ++ x1 ++ x2 ++ 0b0#1) &&& 0x0FE00010#32 = 0x01A00000#32) _ _ _
  · apply build_A1

theorem RoundTrip.movShiftReg (cond : Cond) (setFlags : Bool) (rn : Reg) (rd : Reg) (rs : Reg) (kind : ShiftKind) (rm : Reg) :
    Statement (.movShiftReg cond setFlags rn rd rs kind rm) := by
  intro _
  refine (decodeArm_of 40 rfl ?_).trans (congrArg some ?_)
  · rw [index_A2]
    exact (by decide +kernel : ∀ (x0 : BitVec 1) (x1 : BitVec 2),
      armSpread (0b000#3 ++ 0b1101#4 ++ x0 ++ 0b0#1 ++ x1 ++ 0b1#1) &&& 0x0FE00090#32 = 0x01A00010#32) _ _
  · apply build_A2

theorem RoundTrip.movImm (cond : Cond) (setFlags : Bool) (rn : Reg) (rd : Reg) (rotate : BitVec 4) (imm8 : BitVec 8) :
    Statement (.movImm cond setFlags rn rd rotate imm8) := by
  intro _
  refine (decodeArm_of 41 rfl ?_).trans (congrArg some ?_)
  · rw [index_A3]
    exact (by decide +kernel : ∀ (x0 : BitVec 1) (x1 : BitVec 4),
      armSpread (0b001#3 ++ 0b1101#4 ++ x0 ++ x1) &&& 0x0FE00000#32 = 0x03A00000#32) _ _
  · apply build_A3

theorem RoundTrip.bicShiftImm (cond : Cond) (setFlags : Bool) (rn : Reg) (rd : Reg) (shiftImm : BitVec 5) (kind : ShiftKind) (rm : Reg) :
    Statement (.bicShiftImm cond setFlags rn rd shiftImm kind rm) := by
  intro _
  refine (decodeArm_of 42 rfl ?_).trans (congrArg some ?_)
  · rw [index_A1]
    exact (by decide +kernel : ∀ (x0 : BitVec 1) (x1 : BitVec 1) (x2 : BitVec 2),
      armSpread (0b000#3 ++ 0b1110#4 ++ x0 ++ x1 ++ x2 ++ 0b0#1) &&& 0x0FE00010#32 = 0x01C00000#32) _ _ _
  · apply build_A1

theorem RoundTrip.bicShiftReg (cond : Cond) (setFlags : Bool) (rn : Reg) (rd : Reg) (rs : Reg) (kind : ShiftKind) (rm : Reg) :
    Statement (.bicShiftReg cond setFlags rn rd rs kind rm) := by
  intro _
  refine (decodeArm_of 43 rfl ?_).trans (congrArg some ?_)
  · rw [index_A2]
    exact (by decide +kernel : ∀ (x0 : BitVec 1) (x1 : BitVec 2),
      armSpread (0b000#3 ++ 0b1110#4 ++ x0 ++ 0b0#1 ++ x1 ++ 0b1#1) &&& 0x0FE00090#32 = 0x01C00010#32) _ _
  · apply build_A2

theorem RoundTrip.bicImm (cond : Cond) (setFlags : Bool) (rn : Reg) (rd : Reg) (rotate : BitVec 4) (imm8 : BitVec 8) :
    Statement (.bicImm cond setFlags rn rd rotate imm8) := by
  intro _
  refine (decodeArm_of 44 rfl ?_).trans (congrArg some ?_)
  · rw [index_A3]
    exact (by decide +kernel : ∀ (x0 : BitVec 1) (x1 : BitVec 4),
      armSpread (0b001#3 ++ 0b1110#4 ++ x0 ++ x1) &&& 0x0FE00000#32 = 0x03C00000#32) _ _
  · apply build_A3

theorem RoundTrip.mvnShiftImm (cond : Cond) (setFlags : Bool) (rn : Reg) (rd : Reg) (shiftImm : BitVec 5) (kind : ShiftKind) (rm : Reg) :
    Statement (.mvnShiftImm cond setFlags rn rd shiftImm kind rm) := by
  intro _
  refine (decodeArm_of 45 rfl ?_).trans (congrArg some ?_)
  · rw [index_A1]
    exact (by decide +kernel : ∀ (x0 : BitVec 1) (x1 : BitVec 1) (x2 : BitVec 2),
      armSpread (0b000#3 ++ 0b1111#4 ++ x0 ++ x1 ++ x2 ++ 0b0#1) &&& 0x0FE00010#32 = 0x01E00000#32) _ _ _
  · apply build_A1

theorem RoundTrip.mvnShiftReg (cond : Cond) (setFlags : Bool) (rn : Reg) (rd : Reg) (rs : Reg) (kind : ShiftKind) (rm : Reg) :
    Statement (.mvnShiftReg cond setFlags rn rd rs kind rm) := by
  intro _
  refine (decodeArm_of 46 rfl ?_).trans (congrArg some ?_)
  · rw [index_A2]
    exact (by decide +kernel : ∀ (x0 : BitVec 1) (x1 : BitVec 2),
      armSpread (0b000#3 ++ 0b1111#4 ++ x0 ++ 0b0#1 ++ x1 ++ 0b1#1) &&& 0x0FE00090#32 = 0x01E00010#32) _ _
  · apply build_A2

theorem RoundTrip.mvnImm (cond : Cond) (setFlags : Bool) (rn : Reg) (rd : Reg) (rotate : BitVec 4) (imm8 : BitVec 8) :
    Statement (.mvnImm cond setFlags rn rd rotate imm8) := by
  intro _
  refine (decodeArm_of 47 rfl ?_).trans (congrArg some ?_)
  · rw [index_A3]
    exact (by decide +kernel : ∀ (x0 : BitVec 1) (x1 : BitVec 4),
      armSpread (0b001#3 ++ 0b1111#4 ++ x0 ++ x1) &&& 0x0FE00000#32 = 0x03E00000#32) _ _
  · apply build_A3

theorem RoundTrip.mul (cond : Cond) (setFlags : Bool) (rd : Reg) (rn : Reg) (rs : Reg) (rm : Reg) :
    Statement (.mul cond setFlags rd rn rs rm) := by
  intro _
  refine (decodeArm_of 48 rfl ?_).trans (congrArg some ?_)
  · rw [index_A8]
    exact (by decide +kernel : ∀ (x0 : BitVec 1),
      armSpread (0b000000#6 ++ (BitVec.ofBool false) ++ x0 ++ 0b1001#4) &&& 0x0FE000F0#32 = 0x00000090#32) _
  · apply build_A8

theorem RoundTrip.mla (cond : Cond) (setFlags : Bool) (rd : Reg) (rn : Reg) (rs : Reg) (rm : Reg) :
    Statement (.mla cond setFlags rd rn rs rm) := by
  intro _
  refine (decodeArm_of 49 rfl ?_).trans (congrArg some ?_)
  · rw [index_A8]
    exact (by decide +kernel : ∀ (x0 : BitVec 1),
      armSpread (0b000000#6 ++ (BitVec.ofBool true) ++ x0 ++ 0b1001#4) &&& 0x0FE000F0#32 = 0x00200090#32) _
  · apply build_A8

theorem RoundTrip.umull (cond : Cond) (setFlags : Bool) (rdHi : Reg) (rdLo : Reg) (rs : Reg) (rm : Reg) :
    Statement (.umull cond setFlags rdHi rdLo rs rm) := by
  intro _
  refine (decodeArm_of 50 rfl ?_).trans (congrArg some ?_)
  · rw [index_A9]
    exact (by decide +kernel : ∀ (x0 : BitVec 1),
      armSpread (0b00001#5 ++ (BitVec.ofBool false) ++ (BitVec.ofBool false) ++ x0 ++ 0b1001#4) &&& 0x0FE000F0#32 = 0x00800090#32) _
  · apply build_A9

theorem RoundTrip.umlal (cond : Cond) (setFlags : Bool) (rdHi : Reg) (rdLo : Reg) (rs : Reg) (rm : Reg) :
    Statement (.umlal cond setFlags rdHi rdLo rs rm) := by
  intro _
  refine (decodeArm_of 51 rfl ?_).trans (congrArg some ?_)
  · rw [index_A9]
    exact (by decide +kernel : ∀ (x0 : BitVec 1),
      armSpread (0b00001#5 ++ (BitVec.ofBool false) ++ (BitVec.ofBool true) ++ x0 ++ 0b1001#4) &&& 0x0FE000F0#32 = 0x00A00090#32) _
  · apply build_A9

theorem RoundTrip.smull (cond : Cond) (setFlags : Bool) (rdHi : Reg) (rdLo : Reg) (rs : Reg) (rm : Reg) :
    Statement (.smull cond setFlags rdHi rdLo rs rm) := by
  intro _
  refine (decodeArm_of 52 rfl ?_).trans (congrArg some ?_)
  · rw [index_A9]
    exact (by decide +kernel : ∀ (x0 : BitVec 1),
      armSpread (0b00001#5 ++ (BitVec.ofBool true) ++ (BitVec.ofBool false) ++ x0 ++ 0b1001#4) &&& 0x0FE000F0#32 = 0x00C00090#32) _
  · apply build_A9

theorem RoundTrip.smlal (cond : Cond) (setFlags : Bool) (rdHi : Reg) (rdLo : Reg) (rs : Reg) (rm : Reg) :
    Statement (.smlal cond setFlags rdHi rdLo rs rm) := by
  intro _
  refine (decodeArm_of 53 rfl ?_).trans (congrArg some ?_)
  · rw [index_A9]
    exact (by decide +kernel : ∀ (x0 : BitVec 1),
      armSpread (0b00001#5 ++ (BitVec.ofBool true) ++ (BitVec.ofBool true) ++ x0 ++ 0b1001#4) &&& 0x0FE000F0#32 = 0x00E00090#32) _
  · apply build_A9

theorem RoundTrip.swp (cond : Cond) (rn : Reg) (rd : Reg) (rm : Reg) :
    Statement (.swp cond rn rd rm) := by
  intro _
  refine (decodeArm_of 54 rfl ?_).trans (congrArg some ?_)
  · rw [index_A10]
    decide +kernel
  · apply build_A10

theorem RoundTrip.swpb (cond : Cond) (rn : Reg) (rd : Reg) (rm : Reg) :
    Statement (.swpb cond rn rd rm) := by
  intro _
  refine (decodeArm_of 55 rfl ?_).trans (congrArg some ?_)
  · rw [index_A10]
    decide +kernel
  · apply build_A10

theorem RoundTrip.strhReg (cond : Cond) (p : Bool) (u : Bool) (w : Bool) (rn : Reg) (rd : Reg) (rm : Reg) :
    Statement (.strhReg cond p u w rn rd rm) := by
  intro _
  refine (decodeArm_of 56 rfl ?_).trans (congrArg some ?_)
  · rw [index_A11]
    exact (by decide +kernel : ∀ (x0 : BitVec 1) (x1 : BitVec 1) (x2 : BitVec 1),
      armSpread (0b000#3 ++ x0 ++ x1 ++ 0b0#1 ++ x2 ++ (BitVec.ofBool false) ++ 0b1#1 ++ (BitVec.ofBool false) ++ (BitVec.ofBool true) ++ 0b1#1) &&& 0x0E5000F0#32 = 0x000000B0#32) _ _ _
  · apply build_A11

theorem RoundTrip.strhImm (cond : Cond) (p : Bool) (u : Bool) (w : Bool) (rn : Reg) (rd : Reg) (immH : BitVec 4) (immL : BitVec 4) :
    Statement (.strhImm cond p u w rn rd immH immL) := by
  intro _
  refine (decodeArm_of 57 rfl ?_).trans (congrArg some ?_)
  · rw [index_A12]
    exact (by decide +kernel : ∀ (x0 : BitVec 1) (x1 : BitVec 1) (x2 : BitVec 1),
      armSpread (0b000#3 ++ x0 ++ x1 ++ 0b1#1 ++ x2 ++ (BitVec.ofBool false) ++ 0b1#1 ++ (BitVec.ofBool false) ++ (BitVec.ofBool true) ++ 0b1#1) &&& 0x0E5000F0#32 = 0x004000B0#32) _ _ _
  · apply build_A12

theorem RoundTrip.ldrhReg (cond : Cond) (p : Bool) (u : Bool) (w : Bool) (rn : Reg) (rd : Reg) (rm : Reg) :
    Statement (.ldrhReg cond p u w rn rd rm) := by
  intro _
  refine (decodeArm_of 58 rfl ?_).trans (congrArg some ?_)
  · rw [index_A11]
    exact (by decide +kernel : ∀ (x0 : BitVec 1) (x1 : BitVec 1) (x2 : BitVec 1),
      armSpread (0b000#3 ++ x0 ++ x1 ++ 0b0#1 ++ x2 ++ (BitVec.ofBool true) ++ 0b1#1 ++ (BitVec.ofBool false) ++ (BitVec.ofBool true) ++ 0b1#1) &&& 0x0E5000F0#32 = 0x001000B0#32) _ _ _
  · apply build_A11

theorem RoundTrip.ldrhImm (cond : Cond) (p : Bool) (u : Bool) (w : Bool) (rn : Reg) (rd : Reg) (immH : BitVec 4) (immL : BitVec 4) :
    Statement (.ldrhImm cond p u w rn rd immH immL) := by
  intro _
  refine (decodeArm_of 59 rfl ?_).trans (congrArg some ?_)
  · rw [index_A12]
    exact (by decide +kernel : ∀ (x0 : BitVec 1) (x1 : BitVec 1) (x2 : BitVec 1),
      armSpread (0b000#3 ++ x0 ++ x1 ++ 0b1#1 ++ x2 ++ (BitVec.ofBool true) ++ 0b1#1 ++ (BitVec.ofBool false) ++ (BitVec.ofBool true) ++ 0b1#1) &&& 0x0E5000F0#32 = 0x005000B0#32) _ _ _
  · apply build_A12

theorem RoundTrip.ldrsbReg (cond : Cond) (p : Bool) (u : Bool) (w : Bool) (rn : Reg) (rd : Reg) (rm : Reg) :
    Statement (.ldrsbReg cond p u w rn rd rm) := by
  intro _
  refine (decodeArm_of 60 rfl ?_).trans (congrArg some ?_)
  · rw [index_A11]
    exact (by decide +kernel : ∀ (x0 : BitVec 1) (x1 : BitVec 1) (x2 : BitVec 1),
      armSpread (0b000#3 ++ x0 ++ x1 ++ 0b0#1 ++ x2 ++ (BitVec.ofBool true) ++ 0b1#1 ++ (BitVec.ofBool true) ++ (BitVec.ofBool false) ++ 0b1#1) &&& 0x0E5000F0#32 = 0x001000D0#32) _ _ _
  · apply build_A11

theorem RoundTrip.ldrsbImm (cond : Cond) (p : Bool) (u : Bool) (w : Bool) (rn : Reg) (rd : Reg) (immH : BitVec 4) (immL : BitVec 4) :
    Statement (.ldrsbImm cond p u w rn rd immH immL) := by
  intro _
  refine (decodeArm_of 61 rfl ?_).trans (congrArg some ?_)
  · rw [index_A12]
    exact (by decide +kernel : ∀ (x0 : BitVec 1) (x1 : BitVec 1) (x2 : BitVec 1),
      armSpread (0b000#3 ++ x0 ++ x1 ++ 0b1#1 ++ x2 ++ (BitVec.ofBool true) ++ 0b1#1 ++ (BitVec.ofBool true) ++ (BitVec.ofBool false) ++ 0b1#1) &&& 0x0E5000F0#32 = 0x005000D0#32) _ _ _
  · apply build_A12

theorem RoundTrip.ldrshReg (cond : Cond) (p : Bool) (u : Bool) (w : Bool) (rn : Reg) (rd : Reg) (rm : Reg) :
    Statement (.ldrshReg cond p u w rn rd rm) := by
  intro _
  refine (decodeArm_of 62 rfl ?_).trans (congrArg some ?_)
  · rw [index_A11]
    exact (by decide +kernel : ∀ (x0 : BitVec 1) (x1 : BitVec 1) (x2 : BitVec 1),
      armSpread (0b000#3 ++ x0 ++ x1 ++ 0b0#1 ++ x2 ++ (BitVec.ofBool true) ++ 0b1#1 ++ (BitVec.ofBool true) ++ (BitVec.ofBool true) ++ 0b1#1) &&& 0x0E5000F0#32 = 0x001000F0#32) _ _ _
  · apply build_A11

theorem RoundTrip.ldrshImm (cond : Cond) (p : Bool) (u : Bool) (w : Bool) (rn : Reg) (rd : Reg) (immH : BitVec 4) (immL : BitVec 4) :
    Statement (.ldrshImm cond p u w rn rd immH immL) := by
  intro _
  refine (decodeArm_of 63 rfl ?_).trans (congrArg some ?_)
  · rw [index_A12]
    exact (by decide +kernel : ∀ (x0 : BitVec 1) (x1 : BitVec 1) (x2 : BitVec 1),
      armSpread (0b000#3 ++ x0 ++ x1 ++ 0b1#1 ++ x2 ++ (BitVec.ofBool true) ++ 0b1#1 ++ (BitVec.ofBool true) ++ (BitVec.ofBool true) ++ 0b1#1) &&& 0x0E5000F0#32 = 0x005000F0#32) _ _ _
  · apply build_A12

theorem RoundTrip.mrs (cond : Cond) (spsr : Bool) (rd : Reg) :
    Statement (.mrs cond spsr rd) := by
  intro _
  refine (decodeArm_of 64 rfl ?_).trans (congrArg some ?_)
  · rw [index_A4]
    exact (by decide +kernel : ∀ (x0 : BitVec 1),
      armSpread (0b00010#5 ++ x0 ++ 0b00#2 ++ 0b0000#4) &&& 0x0FB000F0#32 = 0x01000000#32) _
  · apply build_A4

theorem RoundTrip.msrCpsrReg (cond : Cond) (mask : BitVec 4) (rm : Reg) :
    Statement (.msrCpsrReg cond mask rm) := by
  intro _
  refine (decodeArm_of 65 rfl ?_).trans (congrArg some ?_)
  · rw [index_A5]
    decide +kernel
  · apply build_A5

theorem RoundTrip.msrSpsrReg (cond : Cond) (mask : BitVec 4) (rm : Reg) :
    Statement (.msrSpsrReg cond mask rm) := by
  intro _
  refine (decodeArm_of 66 rfl ?_).trans (congrArg some ?_)
  · rw [index_A5]
    decide +kernel
  · apply build_A5

theorem RoundTrip.msrCpsrImm (cond : Cond) (mask : BitVec 4) (rotate : BitVec 4) (imm8 : BitVec 8) :
    Statement (.msrCpsrImm cond mask rotate imm8) := by
  intro _
  refine (decodeArm_of 67 rfl ?_).trans (congrArg some ?_)
  · rw [index_A6]
    exact (by decide +kernel : ∀ (x0 : BitVec 4),
      armSpread (0b00110#5 ++ (BitVec.ofBool false) ++ 0b10#2 ++ x0) &&& 0x0FF00000#32 = 0x03200000#32) _
  · apply build_A6

theorem RoundTrip.msrSpsrImm (cond : Cond) (mask : BitVec 4) (rotate : BitVec 4) (imm8 : BitVec 8) :
    Statement (.msrSpsrImm cond mask rotate imm8) := by
  intro _
  refine (decodeArm_of 68 rfl ?_).trans (congrArg some ?_)
  · rw [index_A6]
    exact (by decide +kernel : ∀ (x0 : BitVec 4),
      armSpread (0b00110#5 ++ (BitVec.ofBool true) ++ 0b10#2 ++ x0) &&& 0x0FF00000#32 = 0x03600000#32) _
  · apply build_A6

theorem RoundTrip.bx (cond : Cond) (rm : Reg) :
    Statement (.bx cond rm) := by
  intro _
  refine (decodeArm_of 69 rfl ?_).trans (congrArg some ?_)
  · rw [index_A7]
    decide +kernel
  · apply build_A7

theorem RoundTrip.strImmPre (cond : Cond) (u : Bool) (w : Bool) (rn : Reg) (rd : Reg) (imm12 : BitVec 12) :
    Statement (.strImmPre cond u w rn rd imm12) := by
  intro _
  refine (decodeArm_of 70 rfl ?_).trans (congrArg some ?_)
  · rw [index_A13]
    exact (by decide +kernel : ∀ (x0 : BitVec 1) (x1 : BitVec 1) (x2 : BitVec 4),
      armSpread (0b010#3 ++ (BitVec.ofBool true) ++ x0 ++ (BitVec.ofBool false) ++ x1 ++ (BitVec.ofBool false) ++ x2) &&& 0x0F500000#32 = 0x05000000#32) _ _ _
  · apply build_A13pre

theorem RoundTrip.strImmPost (cond : Cond) (u : Bool) (rn : Reg) (rd : Reg) (imm12 : BitVec 12) :
    Statement (.strImmPost cond u rn rd imm12) := by
  intro _
  refine (decodeArm_of 71 rfl ?_).trans (congrArg some ?_)
  · rw [index_A13]
    exact (by decide +kernel : ∀ (x0 : BitVec 1) (x1 : BitVec 4),
      armSpread (0b010#3 ++ (BitVec.ofBool false) ++ x0 ++ (BitVec.ofBool false) ++ (BitVec.ofBool false) ++ (BitVec.ofBool false) ++ x1) &&& 0x0F700000#32 = 0x04000000#32) _ _
  · apply build_A13post

theorem RoundTrip.strtImm (cond : Cond) (u : Bool) (rn : Reg) (rd : Reg) (imm12 : BitVec 12) :
    Statement (.strtImm cond u rn rd imm12) := by
  intro _
  refine (decodeArm_of 72 rfl ?_).trans (congrArg some ?_)
  · rw [index_A13]
    exact (by decide +kernel : ∀ (x0 : BitVec 1) (x1 : BitVec 4),
      armSpread (0b010#3 ++ (BitVec.ofBool false) ++ x0 ++ (BitVec.ofBool false) ++ (BitVec.ofBool true) ++ (BitVec.ofBool false) ++ x1) &&& 0x0F700000#32 = 0x04200000#32) _ _
  · apply build_A13post

theorem RoundTrip.strRegPre (cond : Cond) (u : Bool) (w : Bool) (rn : Reg) (rd : Reg) (shiftImm : BitVec 5) (kind : ShiftKind) (rm : Reg) :
    Statement (.strRegPre cond u w rn rd shiftImm kind rm) := by
  intro _
  refine (decodeArm_of 73 rfl ?_).trans (congrArg some ?_)
  · rw [index_A14]
    exact (by decide +kernel : ∀ (x0 : BitVec 1) (x1 : BitVec 1) (x2 : BitVec 1) (x3 : BitVec 2),
      armSpread (0b011#3 ++ (BitVec.ofBool true) ++ x0 ++ (BitVec.ofBool false) ++ x1 ++ (BitVec.ofBool false) ++ x2 ++ x3 ++ 0b0#1) &&& 0x0F500010#32 = 0x07000000#32) _ _ _ _
  · apply build_A14pre

theorem RoundTrip.strRegPost (cond : Cond) (u : Bool) (rn : Reg) (rd : Reg) (shiftImm : BitVec 5) (kind : ShiftKind) (rm : Reg) :
    Statement (.strRegPost cond u rn rd shiftImm kind rm) := by
  intro _
  refine (decodeArm_of 74 rfl ?_).trans (congrArg some ?_)
  · rw [index_A14]
    exact (by decide +kernel : ∀ (x0 : BitVec 1) (x1 : BitVec 1) (x2 : BitVec 2),
      armSpread (0b011#3 ++ (BitVec.ofBool false) ++ x0 ++ (BitVec.ofBool false) ++ (BitVec.ofBool false) ++ (BitVec.ofBool false) ++ x1 ++ x2 ++ 0b0#1) &&& 0x0F700010#32 = 0x06000000#32) _ _ _
  · apply build_A14post

theorem RoundTrip.strtReg (cond : Cond) (u : Bool) (rn : Reg) (rd : Reg) (shiftImm : BitVec 5) (kind : ShiftKind) (rm : Reg) :
    Statement (.strtReg cond u rn rd shiftImm kind rm) := by
  intro _
  refine (decodeArm_of 75 rfl ?_).trans (congrArg some ?_)
  · rw [index_A14]
    exact (by decide +kernel : ∀ (x0 : BitVec 1) (x1 : BitVec 1) (x2 : BitVec 2),
      armSpread (0b011#3 ++ (BitVec.ofBool false) ++ x0 ++ (BitVec.ofBool false) ++ (BitVec.ofBool true) ++ (BitVec.ofBool false) ++ x1 ++ x2 ++ 0b0#1) &&& 0x0F700010#32 = 0x06200000#32) _ _ _
  · apply build_A14post

theorem RoundTrip.ldrImmPre (cond : Cond) (u : Bool) (w : Bool) (rn : Reg) (rd : Reg) (imm12 : BitVec 12) :
    Statement (.ldrImmPre cond u w rn rd imm12) := by
  intro _
  refine (decodeArm_of 76 rfl ?_).trans (congrArg some ?_)
  · rw [index_A13]
    exact (by decide +kernel : ∀ (x0 : BitVec 1) (x1 : BitVec 1) (x2 : BitVec 4),
      armSpread (0b010#3 ++ (BitVec.ofBool true) ++ x0 ++ (BitVec.ofBool false) ++ x1 ++ (BitVec.ofBool true) ++ x2) &&& 0x0F500000#32 = 0x05100000#32) _ _ _
  · apply build_A13pre

theorem RoundTrip.ldrImmPost (cond : Cond) (u : Bool) (rn : Reg) (rd : Reg) (imm12 : BitVec 12) :
    Statement (.ldrImmPost cond u rn rd imm12) := by
  intro _
  refine (decodeArm_of 77 rfl ?_).trans (congrArg some ?_)
  · rw [index_A13]
    exact (by decide +kernel : ∀ (x0 : BitVec 1) (x1 : BitVec 4),
      armSpread (0b010#3 ++ (BitVec.ofBool false) ++ x0 ++ (BitVec.ofBool false) ++ (BitVec.ofBool false) ++ (BitVec.ofBool true) ++ x1) &&& 0x0F700000#32 = 0x04100000#32) _ _
  · apply build_A13post

theorem RoundTrip.ldrtImm (cond : Cond) (u : Bool) (rn : Reg) (rd : Reg) (imm12 : BitVec 12) :
    Statement (.ldrtImm cond u rn rd imm12) := by
  intro _
  refine (decodeArm_of 78 rfl ?_).trans (congrArg some ?_)
  · rw [index_A13]
    exact (by decide +kernel : ∀ (x0 : BitVec 1) (x1 : BitVec 4),
      armSpread (0b010#3 ++ (BitVec.ofBool false) ++ x0 ++ (BitVec.ofBool false) ++ (BitVec.ofBool true) ++ (BitVec.ofBool true) ++ x1) &&& 0x0F700000#32 = 0x04300000#32) _ _
  · apply build_A13post

theorem RoundTrip.ldrRegPre (cond : Cond) (u : Bool) (w : Bool) (rn : Reg) (rd : Reg) (shiftImm : BitVec 5) (kind : ShiftKind) (rm : Reg) :
    Statement (.ldrRegPre cond u w rn rd shiftImm kind rm) := by
  intro _
  refine (decodeArm_of 79 rfl ?_).trans (congrArg some ?_)
  · rw [index_A14]
    exact (by decide +kernel : ∀ (x0 : BitVec 1) (x1 : BitVec 1) (x2 : BitVec 1) (x3 : BitVec 2),
      armSpread (0b011#3 ++ (BitVec.ofBool true) ++ x0 ++ (BitVec.ofBool false) ++ x1 ++ (BitVec.ofBool true) ++ x2 ++ x3 ++ 0b0#1) &&& 0x0F500010#32 = 0x07100000#32) _ _ _ _
  · apply build_A14pre

theorem RoundTrip.ldrRegPost (cond : Cond) (u : Bool) (rn : Reg) (rd : Reg) (shiftImm : BitVec 5) (kind : ShiftKind) (rm : Reg) :
    Statement (.ldrRegPost cond u rn rd shiftImm kind rm) := by
  intro _
  refine (decodeArm_of 80 rfl ?_).trans (congrArg some ?_)
  · rw [index_A14]
    exact (by decide +kernel : ∀ (x0 : BitVec 1) (x1 : BitVec 1) (x2 : BitVec 2),
      armSpread (0b011#3 ++ (BitVec.ofBool false) ++ x0 ++ (BitVec.ofBool false) ++ (BitVec.ofBool false) ++ (BitVec.ofBool true) ++ x1 ++ x2 ++ 0b0#1) &&& 0x0F700010#32 = 0x06100000#32) _ _ _
  · apply build_A14post

theorem RoundTrip.ldrtReg (cond : Cond) (u : Bool) (rn : Reg) (rd : Reg) (shiftImm : BitVec 5) (kind : ShiftKind) (rm : Reg) :
    Statement (.ldrtReg cond u rn rd shiftImm kind rm) := by
  intro _
  refine (decodeArm_of 81 rfl ?_).trans (congrArg some ?_)
  · rw [index_A14]
    exact (by decide +kernel : ∀ (x0 : BitVec 1) (x1 : BitVec 1) (x2 : BitVec 2),
      armSpread (0b011#3 ++ (BitVec.ofBool false) ++ x0 ++ (BitVec.ofBool false) ++ (BitVec.ofBool true) ++ (BitVec.ofBool true) ++ x1 ++ x2 ++ 0b0#1) &&& 0x0F700010#32 = 0x06300000#32) _ _ _
  · apply build_A14post

theorem RoundTrip.strbImmPre (cond : Cond) (u : Bool) (w : Bool) (rn : Reg) (rd : Reg) (imm12 : BitVec 12) :
    Statement (.strbImmPre cond u w rn rd imm12) := by
  intro _
  refine (decodeArm_of 82 rfl ?_).trans (congrArg some ?_)
  · rw [index_A13]
    exact (by decide +kernel : ∀ (x0 : BitVec 1) (x1 : BitVec 1) (x2 : BitVec 4),
      armSpread (0b010#3 ++ (BitVec.ofBool true) ++ x0 ++ (BitVec.ofBool true) ++ x1 ++ (BitVec.ofBool false) ++ x2) &&& 0x0F500000#32 = 0x05400000#32) _ _ _
  · apply build_A13pre

theorem RoundTrip.strbImmPost (cond : Cond) (u : Bool) (rn : Reg) (rd : Reg) (imm12 : BitVec 12) :
    Statement (.strbImmPost cond u rn rd imm12) := by
  intro _
  refine (decodeArm_of 83 rfl ?_).trans (congrArg some ?_)
  · rw [index_A13]
    exact (by decide +kernel : ∀ (x0 : BitVec 1) (x1 : BitVec 4),
      armSpread (0b010#3 ++ (BitVec.ofBool false) ++ x0 ++ (BitVec.ofBool true) ++ (BitVec.ofBool false) ++ (BitVec.ofBool false) ++ x1) &&& 0x0F700000#32 = 0x04400000#32) _ _
  · apply build_A13post

theorem RoundTrip.strbtImm (cond : Cond) (u : Bool) (rn : Reg) (rd : Reg) (imm12 : BitVec 12) :
    Statement (.strbtImm cond u rn rd imm12) := by
  intro _
  refine (decodeArm_of 84 rfl ?_).trans (congrArg some ?_)
  · rw [index_A13]
    exact (by decide +kernel : ∀ (x0 : BitVec 1) (x1 : BitVec 4),
      armSpread (0b010#3 ++ (BitVec.ofBool false) ++ x0 ++ (BitVec.ofBool true) ++ (BitVec.ofBool true) ++ (BitVec.ofBool false) ++ x1) &&& 0x0F700000#32 = 0x04600000#32) _ _
  · apply build_A13post

theorem RoundTrip.strbRegPre (cond : Cond) (u : Bool) (w : Bool) (rn : Reg) (rd : Reg) (shiftImm : BitVec 5) (kind : ShiftKind) (rm : Reg) :
    Statement (.strbRegPre cond u w rn rd shiftImm kind rm) := by
  intro _
  refine (decodeArm_of 85 rfl ?_).trans (congrArg some ?_)
  · rw [index_A14]
    exact (by decide +kernel : ∀ (x0 : BitVec 1) (x1 : BitVec 1) (x2 : BitVec 1) (x3 : BitVec 2),
      armSpread (0b011#3 ++ (BitVec.ofBool true) ++ x0 ++ (BitVec.ofBool true) ++ x1 ++ (BitVec.ofBool false) ++ x2 ++ x3 ++ 0b0#1) &&& 0x0F500010#32 = 0x07400000#32) _ _ _ _
  · apply build_A14pre

theorem RoundTrip.strbRegPost (cond : Cond) (u : Bool) (rn : Reg) (rd : Reg) (shiftImm : BitVec 5) (kind : ShiftKind) (rm : Reg) :
    Statement (.strbRegPost cond u rn rd shiftImm kind rm) := by
  intro _
  refine (decodeArm_of 86 rfl ?_).trans (congrArg some ?_)
  · rw [index_A14]
    exact (by decide +kernel : ∀ (x0 : BitVec 1) (x1 : BitVec 1) (x2 : BitVec 2),
      armSpread (0b011#3 ++ (BitVec.ofBool false) ++ x0 ++ (BitVec.ofBool true) ++ (BitVec.ofBool false) ++ (BitVec.ofBool false) ++ x1 ++ x2 ++ 0b0#1) &&& 0x0F700010#32 = 0x06400000#32) _ _ _
  · apply build_A14post

theorem RoundTrip.strbtReg (cond : Cond) (u : Bool) (rn : Reg) (rd : Reg) (shiftImm : BitVec 5) (kind : ShiftKind) (rm : Reg) :
    Statement (.strbtReg cond u rn rd shiftImm kind rm) := by
  intro _
  refine (decodeArm_of 87 rfl ?_).trans (congrArg some ?_)
  · rw [index_A14]
    exact (by decide +kernel : ∀ (x0 : BitVec 1) (x1 : BitVec 1) (x2 : BitVec 2),
      armSpread (0b011#3 ++ (BitVec.ofBool false) ++ x0 ++ (BitVec.ofBool true) ++ (BitVec.ofBool true) ++ (BitVec.ofBool false) ++ x1 ++ x2 ++ 0b0#1) &&& 0x0F700010#32 = 0x06600000#32) _ _ _
  · apply build_A14post

theorem RoundTrip.ldrbImmPre (cond : Cond) (u : Bool) (w : Bool) (rn : Reg) (rd : Reg) (imm12 : BitVec 12) :
    Statement (.ldrbImmPre cond u w rn rd imm12) := by
  intro _
  refine (decodeArm_of 88 rfl ?_).trans (congrArg some ?_)
  · rw [index_A13]
    exact (by decide +kernel : ∀ (x0 : BitVec 1) (x1 : BitVec 1) (x2 : BitVec 4),
      armSpread (0b010#3 ++ (BitVec.ofBool true) ++ x0 ++ (BitVec.ofBool true) ++ x1 ++ (BitVec.ofBool true) ++ x2) &&& 0x0F500000#32 = 0x05500000#32) _ _ _
  · apply build_A13pre

theorem RoundTrip.ldrbImmPost (cond : Cond) (u : Bool) (rn : Reg) (rd : Reg) (imm12 : BitVec 12) :
    Statement (.ldrbImmPost cond u rn rd imm12) := by
  intro _
  refine (decodeArm_of 89 rfl ?_).trans (congrArg some ?_)
  · rw [index_A13]
    exact (by decide +kernel : ∀ (x0 : BitVec 1) (x1 : BitVec 4),
      armSpread (0b010#3 ++ (BitVec.ofBool false) ++ x0 ++ (BitVec.ofBool true) ++ (BitVec.ofBool false) ++ (BitVec.ofBool true) ++ x1) &&& 0x0F700000#32 = 0x04500000#32) _ _
  · apply build_A13post

theorem RoundTrip.ldrbtImm (cond : Cond) (u : Bool) (rn : Reg) (rd : Reg) (imm12 : BitVec 12) :
    Statement (.ldrbtImm cond u rn rd imm12) := by
  intro _
  refine (decodeArm_of 90 rfl ?_).trans (congrArg some ?_)
  · rw [index_A13]
    exact (by decide +kernel : ∀ (x0 : BitVec 1) (x1 : BitVec 4),
      armSpread (0b010#3 ++ (BitVec.ofBool false) ++ x0 ++ (BitVec.ofBool true) ++ (BitVec.ofBool true) ++ (BitVec.ofBool true) ++ x1) &&& 0x0F700000#32 = 0x04700000#32) _ _
  · apply build_A13post

theorem RoundTrip.ldrbRegPre (cond : Cond) (u : Bool) (w : Bool) (rn : Reg) (rd : Reg) (shiftImm : BitVec 5) (kind : ShiftKind) (rm : Reg) :
    Statement (.ldrbRegPre cond u w rn rd shiftImm kind rm) := by
  intro _
  refine (decodeArm_of 91 rfl ?_).trans (congrArg some ?_)
  · rw [index_A14]
    exact (by decide +kernel : ∀ (x0 : BitVec 1) (x1 : BitVec 1) (x2 : BitVec 1) (x3 : BitVec 2),
      armSpread (0b011#3 ++ (BitVec.ofBool true) ++ x0 ++ (BitVec.ofBool true) ++ x1 ++ (BitVec.ofBool true) ++ x2 ++ x3 ++ 0b0#1) &&& 0x0F500010#32 = 0x07500000#32) _ _ _ _
  · apply build_A14pre

theorem RoundTrip.ldrbRegPost (cond : Cond) (u : Bool) (rn : Reg) (rd : Reg) (shiftImm : BitVec 5) (kind : ShiftKind) (rm : Reg) :
    Statement (.ldrbRegPost cond u rn rd shiftImm kind rm) := by
  intro _
  refine (decodeArm_of 92 rfl ?_).trans (congrArg some ?_)
  · rw [index_A14]
    exact (by decide +kernel : ∀ (x0 : BitVec 1) (x1 : BitVec 1) (x2 : BitVec 2),
      armSpread (0b011#3 ++ (BitVec.ofBool false) ++ x0 ++ (BitVec.ofBool true) ++ (BitVec.ofBool false) ++ (BitVec.ofBool true) ++ x1 ++ x2 ++ 0b0#1) &&& 0x0F700010#32 = 0x06500000#32) _ _ _
  · apply build_A14post

theorem RoundTrip.ldrbtReg (cond : Cond) (u : Bool) (rn : Reg) (rd : Reg) (shiftImm : BitVec 5) (kind : ShiftKind) (rm : Reg) :
    Statement (.ldrbtReg cond u rn rd shiftImm kind rm) := by
  intro _
  refine (decodeArm_of 93 rfl ?_).trans (congrArg some ?_)
  · rw [index_A14]
    exact (by decide +kernel : ∀ (x0 : BitVec 1) (x1 : BitVec 1) (x2 : BitVec 2),
      armSpread (0b011#3 ++ (BitVec.ofBool false) ++ x0 ++ (BitVec.ofBool true) ++ (BitVec.ofBool true) ++ (BitVec.ofBool true) ++ x1 ++ x2 ++ 0b0#1) &&& 0x0F700010#32 = 0x06700000#32) _ _ _
  · apply build_A14post

theorem RoundTrip.stm (cond : Cond) (p : Bool) (u : Bool) (sBit : Bool) (w : Bool) (rn : Reg) (list : BitVec 16) :
    Statement (.stm cond p u sBit w rn list) := by
  intro _
  refine (decodeArm_of 94 rfl ?_).trans (congrArg some ?_)
  · rw [index_A15]
    exact (by decide +kernel : ∀ (x0 : BitVec 1) (x1 : BitVec 1) (x2 : BitVec 1) (x3 : BitVec 1) (x4 : BitVec 4),
      armSpread (0b100#3 ++ x0 ++ x1 ++ x2 ++ x3 ++ (BitVec.ofBool false) ++ x4) &&& 0x0E100000#32 = 0x08000000#32) _ _ _ _ _
  · apply build_A15

theorem RoundTrip.ldm (cond : Cond) (p : Bool) (u : Bool) (sBit : Bool) (w : Bool) (rn : Reg) (list : BitVec 16) :
    Statement (.ldm cond p u sBit w rn list) := by
  intro _
  refine (decodeArm_of 95 rfl ?_).trans (congrArg some ?_)
  · rw [index_A15]
    exact (by decide +kernel : ∀ (x0 : BitVec 1) (x1 : BitVec 1) (x2 : BitVec 1) (x3 : BitVec 1) (x4 : BitVec 4),
      armSpread (0b100#3 ++ x0 ++ x1 ++ x2 ++ x3 ++ (BitVec.ofBool true) ++ x4) &&& 0x0E100000#32 = 0x08100000#32) _ _ _ _ _
  · apply build_A15

theorem RoundTrip.b (cond : Cond) (imm24 : BitVec 24) :
    Statement (.b cond imm24) := by
  intro _
  refine (decodeArm_of 96 rfl ?_).trans (congrArg some ?_)
  · rw [index_A16]
    exact (by decide +kernel : ∀ (x0 : BitVec 4) (x1 : BitVec 4),
      armSpread (0b101#3 ++ (BitVec.ofBool false) ++ x0 ++ x1) &&& 0x0F000000#32 = 0x0A000000#32) _ _
  · apply build_A16

theorem RoundTrip.bl (cond : Cond) (imm24 : BitVec 24) :
    Statement (.bl cond imm24) := by
  intro _
  refine (decodeArm_of 97 rfl ?_).trans (congrArg some ?_)
  · rw [index_A16]
    exact (by decide +kernel : ∀ (x0 : BitVec 4) (x1 : BitVec 4),
      armSpread (0b101#3 ++ (BitVec.ofBool true) ++ x0 ++ x1) &&& 0x0F000000#32 = 0x0B000000#32) _ _
  · apply build_A16

theorem RoundTrip.stc (cond : Cond) (p : Bool) (u : Bool) (n : Bool) (w : Bool) (rn : Reg) (crd : BitVec 4) (cp : BitVec 4) (imm8 : BitVec 8) :
    Statement (.stc cond p u n w rn crd cp imm8) := by
  intro _
  refine (decodeArm_of 98 rfl ?_).trans (congrArg some ?_)
  · rw [index_A17]
    exact (by decide +kernel : ∀ (x0 : BitVec 1) (x1 : BitVec 1) (x2 : BitVec 1) (x3 : BitVec 1) (x4 : BitVec 4),
      armSpread (0b110#3 ++ x0 ++ x1 ++ x2 ++ x3 ++ (BitVec.ofBool false) ++ x4) &&& 0x0E100000#32 = 0x0C000000#32) _ _ _ _ _
  · apply build_A17

theorem RoundTrip.ldc (cond : Cond) (p : Bool) (u : Bool) (n : Bool) (w : Bool) (rn : Reg) (crd : BitVec 4) (cp : BitVec 4) (imm8 : BitVec 8) :
    Statement (.ldc cond p u n w rn crd cp imm8) := by
  intro _
  refine (decodeArm_of 99 rfl ?_).trans (congrArg some ?_)
  · rw [index_A17]
    exact (by decide +kernel : ∀ (x0 : BitVec 1) (x1 : BitVec 1) (x2 : BitVec 1) (x3 : BitVec 1) (x4 : BitVec 4),
      armSpread (0b110#3 ++ x0 ++ x1 ++ x2 ++ x3 ++ (BitVec.ofBool true) ++ x4) &&& 0x0E100000#32 = 0x0C100000#32) _ _ _ _ _
  · apply build_A17

theorem RoundTrip.cdp (cond : Cond) (opc1 : BitVec 4) (crn : BitVec 4) (crd : BitVec 4) (cp : BitVec 4) (opc2 : BitVec 3) (crm : BitVec 4) :
    Statement (.cdp cond opc1 crn crd cp opc2 crm) := by
  intro _
  refine (decodeArm_of 100 rfl ?_).trans (congrArg some ?_)
  · rw [index_A18]
    exact (by decide +kernel : ∀ (x0 : BitVec 4) (x1 : BitVec 3),
      armSpread (0b1110#4 ++ x0 ++ x1 ++ 0b0#1) &&& 0x0F000010#32 = 0x0E000000#32) _ _
  · apply build_A18

theorem RoundTrip.mcr (cond : Cond) (opc1 : BitVec 3) (crn : BitVec 4) (rd : Reg) (cp : BitVec 4) (opc2 : BitVec 3) (crm : BitVec 4) :
    Statement (.mcr cond opc1 crn rd cp opc2 crm) := by
  intro _
  refine (decodeArm_of 101 rfl ?_).trans (congrArg some ?_)
  · rw [index_A19]
    exact (by decide +kernel : ∀ (x0 : BitVec 3) (x1 : BitVec 3),
      armSpread (0b1110#4 ++ x0 ++ (BitVec.ofBool false) ++ x1 ++ 0b1#1) &&& 0x0F100010#32 = 0x0E000010#32) _ _
  · apply build_A19

theorem RoundTrip.mrc (cond : Cond) (opc1 : BitVec 3) (crn : BitVec 4) (rd : Reg) (cp : BitVec 4) (opc2 : BitVec 3) (crm : BitVec 4) :
    Statement (.mrc cond opc1 crn rd cp opc2 crm) := by
  intro _
  refine (decodeArm_of 102 rfl ?_).trans (congrArg some ?_)
  · rw [index_A19]
    exact (by decide +kernel : ∀ (x0 : BitVec 3) (x1 : BitVec 3),
      armSpread (0b1110#4 ++ x0 ++ (BitVec.ofBool true) ++ x1 ++ 0b1#1) &&& 0x0F100010#32 = 0x0E100010#32) _ _
  · apply build_A19

theorem RoundTrip.swi (cond : Cond) (comment : BitVec 24) :
    Statement (.swi cond comment) := by
  intro _
  refine (decodeArm_of 103 rfl ?_).trans (congrArg some ?_)
  · rw [index_A20]
    exact (by decide +kernel : ∀ (x0 : BitVec 4) (x1 : BitVec 4),
      armSpread (0b1111#4 ++ x0 ++ x1) &&& 0x0F000000#32 = 0x0F000000#32) _ _
  · apply build_A20

theorem RoundTrip.undefMulSpace (cond : Cond) :
    Statement (.undefMulSpace cond) := by
  intro _
  refine (decodeArm_of 104 rfl ?_).trans (congrArg some ?_)
  · rw [index_Undef]
    decide +kernel
  · apply build_U

theorem RoundTrip.undefSwapBit23 (cond : Cond) :
    Statement (.undefSwapBit23 cond) := by
  intro _
  refine (decodeArm_of 105 rfl ?_).trans (congrArg some ?_)
  · rw [index_Undef]
    decide +kernel
  · apply build_U

theorem RoundTrip.undefSwapBit20 (cond : Cond) :
    Statement (.undefSwapBit20 cond) := by
  intro _
  refine (decodeArm_of 106 rfl ?_).trans (congrArg some ?_)
  · rw [index_Undef]
    decide +kernel
  · apply build_U

theorem RoundTrip.undefSwapBit21 (cond : Cond) :
    Statement (.undefSwapBit21 cond) := by
  intro _
  refine (decodeArm_of 107 rfl ?_).trans (congrArg some ?_)
  · rw [index_Undef]
    decide +kernel
  · apply build_U

theorem RoundTrip.undefHalfStore (cond : Cond) :
    Statement (.undefHalfStore cond) := by
  intro _
  refine (decodeArm_of 108 rfl ?_).trans (congrArg some ?_)
  · rw [index_Undef]
    decide +kernel
  · apply build_U

theorem RoundTrip.undefTestBit7 (cond : Cond) :
    Statement (.undefTestBit7 cond) := by
  intro _
  refine (decodeArm_of 109 rfl ?_).trans (congrArg some ?_)
  · rw [index_Undef]
    decide +kernel
  · apply build_U

theorem RoundTrip.undefTestLsl01 (cond : Cond) :
    Statement (.undefTestLsl01 cond) := by
  intro _
  refine (decodeArm_of 110 rfl ?_).trans (congrArg some ?_)
  · rw [index_Undef]
    decide +kernel
  · apply build_U

theorem RoundTrip.undefTestLo2 (cond : Cond) :
    Statement (.undefTestLo2 cond) := by
  intro _
  refine (decodeArm_of 111 rfl ?_).trans (congrArg some ?_)
  · rw [index_Undef]
    decide +kernel
  · apply build_U

theorem RoundTrip.undefTestBit6Reg (cond : Cond) :
    Statement (.undefTestBit6Reg cond) := by
  intro _
  refine (decodeArm_of 112 rfl ?_).trans (congrArg some ?_)
  · rw [index_Undef]
    decide +kernel
  · apply build_U

theorem RoundTrip.undefTestLo3 (cond : Cond) :
    Statement (.undefTestLo3 cond) := by
  intro _
  refine (decodeArm_of 113 rfl ?_).trans (congrArg some ?_)
  · rw [index_Undef]
    decide +kernel
  · apply build_U

theorem RoundTrip.undefMrsLo1 (cond : Cond) :
    Statement (.undefMrsLo1 cond) := by
  intro _
  refine (decodeArm_of 114 rfl ?_).trans (congrArg some ?_)
  · rw [index_Undef]
    decide +kernel
  · apply build_U

theorem RoundTrip.undefMsrSpsrLo1 (cond : Cond) :
    Statement (.undefMsrSpsrLo1 cond) := by
  intro _
  refine (decodeArm_of 115 rfl ?_).trans (congrArg some ?_)
  · rw [index_Undef]
    decide +kernel
  · apply build_U

theorem RoundTrip.undefTestImm (cond : Cond) :
    Statement (.undefTestImm cond) := by
  intro _
  refine (decodeArm_of 116 rfl ?_).trans (congrArg some ?_)
  · rw [index_Undef]
    decide +kernel
  · apply build_U

theorem RoundTrip.undefRegOffsetBit4 (cond : Cond) :
    Statement (.undefRegOffsetBit4 cond) := by
  intro _
  refine (decodeArm_of 117 rfl ?_).trans (congrArg some ?_)
  · rw [index_Undef]
    decide +kernel
  · apply build_U

theorem RoundTrip.tLslImm (offset5 : BitVec 5) (rs : Reg) (rd : Reg) :
    Statement (.tLslImm offset5 rs rd) := by
  intro h
  simp only [Instr.wf, Bool.and_eq_true] at h
  refine (decodeThumb_of 0 rfl ?_).trans (congrArg some ?_)
  · rw [index_T1]
    exact (by decide +kernel : ∀ (x0 : BitVec 5),
      thumbSpread (0b000#3 ++ 0b00#2 ++ x0) &&& 0xF800#16 = 0x0000#16) _
  · apply build_T1 <;> simp only [h]

theorem RoundTrip.tLsrImm (offset5 : BitVec 5) (rs : Reg) (rd : Reg) :
    Statement (.tLsrImm offset5 rs rd) := by
  intro h
  simp only [Instr.wf, Bool.and_eq_true] at h
  refine (decodeThumb_of 1 rfl ?_).trans (congrArg some ?_)
  · rw [index_T1]
    exact (by decide +kernel : ∀ (x0 : BitVec 5),
      thumbSpread (0b000#3 ++ 0b01#2 ++ x0) &&& 0xF800#16 = 0x0800#16) _
  · apply build_T1 <;> simp only [h]

theorem RoundTrip.tAsrImm (offset5 : BitVec 5) (rs : Reg) (rd : Reg) :
    Statement (.tAsrImm offset5 rs rd) := by
  intro h
  simp only [Instr.wf, Bool.and_eq_true] at h
  refine (decodeThumb_of 2 rfl ?_).trans (congrArg some ?_)
  · rw [index_T1]
    exact (by decide +kernel : ∀ (x0 : BitVec 5),
      thumbSpread (0b000#3 ++ 0b10#2 ++ x0) &&& 0xF800#16 = 0x1000#16) _
  · apply build_T1 <;> simp only [h]

theorem RoundTrip.tAddReg (rn : Reg) (rs : Reg) (rd : Reg) :
    Statement (.tAddReg rn rs rd) := by
  intro h
  simp only [Instr.wf, Bool.and_eq_true] at h
  refine (decodeThumb_of 3 rfl ?_).trans (congrArg some ?_)
  · rw [index_T2]
    exact (by decide +kernel : ∀ (x0 : BitVec 3),
      thumbSpread (0b00011#5 ++ (BitVec.ofBool false) ++ (BitVec.ofBool false) ++ x0) &&& 0xFE00#16 = 0x1800#16) _
  · apply build_T2r <;> simp only [h]

theorem RoundTrip.tSubReg (rn : Reg) (rs : Reg) (rd : Reg) :
    Statement (.tSubReg rn rs rd) := by
  intro h
  simp only [Instr.wf, Bool.and_eq_true] at h
  refine (decodeThumb_of 4 rfl ?_).trans (congrArg some ?_)
  · rw [index_T2]
    exact (by decide +kernel : ∀ (x0 : BitVec 3),
      thumbSpread (0b00011#5 ++ (BitVec.ofBool false) ++ (BitVec.ofBool true) ++ x0) &&& 0xFE00#16 = 0x1A00#16) _
  · apply build_T2r <;> simp only [h]

theorem RoundTrip.tAddImm3 (imm3 : BitVec 3) (rs : Reg) (rd : Reg) :
    Statement (.tAddImm3 imm3 rs rd) := by
  intro h
  simp only [Instr.wf, Bool.and_eq_true] at h
  refine (decodeThumb_of 5 rfl ?_).trans (congrArg some ?_)
  · rw [index_T2]
    exact (by decide +kernel : ∀ (x0 : BitVec 3),
      thumbSpread (0b00011#5 ++ (BitVec.ofBool true) ++ (BitVec.ofBool false) ++ x0) &&& 0xFE00#16 = 0x1C00#16) _
  · apply build_T2i <;> simp only [h]

theorem RoundTrip.tSubImm3 (imm3 : BitVec 3) (rs : Reg) (rd : Reg) :
    Statement (.tSubImm3 imm3 rs rd) := by
  intro h
  simp only [Instr.wf, Bool.and_eq_true] at h
  refine (decodeThumb_of 6 rfl ?_).trans (congrArg some ?_)
  · rw [index_T2]
    exact (by decide +kernel : ∀ (x0 : BitVec 3),
      thumbSpread (0b00011#5 ++ (BitVec.ofBool true) ++ (BitVec.ofBool true) ++ x0) &&& 0xFE00#16 = 0x1E00#16) _
  · apply build_T2i <;> simp only [h]

theorem RoundTrip.tMovImm8 (rd : Reg) (imm8 : BitVec 8) :
    Statement (.tMovImm8 rd imm8) := by
  intro h
  simp only [Instr.wf] at h
  refine (decodeThumb_of 7 rfl ?_).trans (congrArg some ?_)
  · rw [index_T3]
    exact (by decide +kernel : ∀ (x0 : BitVec 3) (x1 : BitVec 2),
      thumbSpread (0b001#3 ++ 0b00#2 ++ x0 ++ x1) &&& 0xF800#16 = 0x2000#16) _ _
  · exact build_T3 (h_rd := h) ..

theorem RoundTrip.tCmpImm8 (rd : Reg) (imm8 : BitVec 8) :
    Statement (.tCmpImm8 rd imm8) := by
  intro h
  simp only [Instr.wf] at h
  refine (decodeThumb_of 8 rfl ?_).trans (congrArg some ?_)
  · rw [index_T3]
    exact (by decide +kernel : ∀ (x0 : BitVec 3) (x1 : BitVec 2),
      thumbSpread (0b001#3 ++ 0b01#2 ++ x0 ++ x1) &&& 0xF800#16 = 0x2800#16) _ _
  · exact build_T3 (h_rd := h) ..

theorem RoundTrip.tAddImm8 (rd : Reg) (imm8 : BitVec 8) :
    Statement (.tAddImm8 rd imm8) := by
  intro h
  simp only [Instr.wf] at h
  refine (decodeThumb_of 9 rfl ?_).trans (congrArg some ?_)
  · rw [index_T3]
    exact (by decide +kernel : ∀ (x0 : BitVec 3) (x1 : BitVec 2),
      thumbSpread (0b001#3 ++ 0b10#2 ++ x0 ++ x1) &&& 0xF800#16 = 0x3000#16) _ _
  · exact build_T3 (h_rd := h) ..

theorem RoundTrip.tSubImm8 (rd : Reg) (imm8 : BitVec 8) :
    Statement (.tSubImm8 rd imm8) := by
  intro h
  simp only [Instr.wf] at h
  refine (decodeThumb_of 10 rfl ?_).trans (congrArg some ?_)
  · rw [index_T3]
    exact (by decide +kernel : ∀ (x0 : BitVec 3) (x1 : BitVec 2),
      thumbSpread (0b001#3 ++ 0b11#2 ++ x0 ++ x1) &&& 0xF800#16 = 0x3800#16) _ _
  · exact build_T3 (h_rd := h) ..

theorem RoundTrip.tAnd (rs : Reg) (rd : Reg) :
    Statement (.tAnd rs rd) := by
  intro h
  simp only [Instr.wf, Bool.and_eq_true] at h
  refine (decodeThumb_of 11 rfl ?_).trans (congrArg some ?_)
  · rw [index_T4]
    decide +kernel
  · apply build_T4 <;> simp only [h]

theorem RoundTrip.tEor (rs : Reg) (rd : Reg) :
    Statement (.tEor rs rd) := by
  intro h
  simp only [Instr.wf, Bool.and_eq_true] at h
  refine (decodeThumb_of 12 rfl ?_).trans (congrArg some ?_)
  · rw [index_T4]
    decide +kernel
  · apply build_T4 <;> simp only [h]

theorem RoundTrip.tLslReg (rs : Reg) (rd : Reg) :
    Statement (.tLslReg rs rd) := by
  intro h
  simp only [Instr.wf, Bool.and_eq_true] at h
  refine (decodeThumb_of 13 rfl ?_).trans (congrArg some ?_)
  · rw [index_T4]
    decide +kernel
  · apply build_T4 <;> simp only [h]

theorem RoundTrip.tLsrReg (rs : Reg) (rd : Reg) :
    Statement (.tLsrReg rs rd) := by
  intro h
  simp only [Instr.wf, Bool.and_eq_true] at h
  refine (decodeThumb_of 14 rfl ?_).trans (congrArg some ?_)
  · rw [index_T4]
    decide +kernel
  · apply build_T4 <;> simp only [h]

theorem RoundTrip.tAsrReg (rs : Reg) (rd : Reg) :
    Statement (.tAsrReg rs rd) := by
  intro h
  simp only [Instr.wf, Bool.and_eq_true] at h
  refine (decodeThumb_of 15 rfl ?_).trans (congrArg some ?_)
  · rw [index_T4]
    decide +kernel
  · apply build_T4 <;> simp only [h]

theorem RoundTrip.tAdc (rs : Reg) (rd : Reg) :
    Statement (.tAdc rs rd) := by
  intro h
  simp only [Instr.wf, Bool.and_eq_true] at h
  refine (decodeThumb_of 16 rfl ?_).trans (congrArg some ?_)
  · rw [index_T4]
    decide +kernel
  · apply build_T4 <;> simp only [h]

theorem RoundTrip.tSbc (rs : Reg) (rd : Reg) :
    Statement (.tSbc rs rd) := by
  intro h
  simp only [Instr.wf, Bool.and_eq_true] at h
  refine (decodeThumb_of 17 rfl ?_).trans (congrArg some ?_)
  · rw [index_T4]
    decide +kernel
  · apply build_T4 <;> simp only [h]

theorem RoundTrip.tRor (rs : Reg) (rd : Reg) :
    Statement (.tRor rs rd) := by
  intro h
  simp only [Instr.wf, Bool.and_eq_true] at h
  refine (decodeThumb_of 18 rfl ?_).trans (congrArg some ?_)
  · rw [index_T4]
    decide +kernel
  · apply build_T4 <;> simp only [h]

theorem RoundTrip.tTst (rs : Reg) (rd : Reg) :
    Statement (.tTst rs rd) := by
  intro h
  simp only [Instr.wf, Bool.and_eq_true] at h
  refine (decodeThumb_of 19 rfl ?_).trans (congrArg some ?_)
  · rw [index_T4]
    decide +kernel
  · apply build_T4 <;> simp only [h]

theorem RoundTrip.tNeg (rs : Reg) (rd : Reg) :
    Statement (.tNeg rs rd) := by
  intro h
  simp only [Instr.wf, Bool.and_eq_true] at h
  refine (decodeThumb_of 20 rfl ?_).trans (congrArg some ?_)
  · rw [index_T4]
    decide +kernel
  · apply build_T4 <;> simp only [h]

theorem RoundTrip.tCmpReg (rs : Reg) (rd : Reg) :
    Statement (.tCmpReg rs rd) := by
  intro h
  simp only [Instr.wf, Bool.and_eq_true] at h
  refine (decodeThumb_of 21 rfl ?_).trans (congrArg some ?_)
  · rw [index_T4]
    decide +kernel
  · apply build_T4 <;> simp only [h]

theorem RoundTrip.tCmn (rs : Reg) (rd : Reg) :
    Statement (.tCmn rs rd) := by
  intro h
  simp only [Instr.wf, Bool.and_eq_true] at h
  refine (decodeThumb_of 22 rfl ?_).trans (congrArg some ?_)
  · rw [index_T4]
    decide +kernel
  · apply build_T4 <;> simp only [h]

theorem RoundTrip.tOrr (rs : Reg) (rd : Reg) :
    Statement (.tOrr rs rd) := by
  intro h
  simp only [Instr.wf, Bool.and_eq_true] at h
  refine (decodeThumb_of 23 rfl ?_).trans (congrArg some ?_)
  · rw [index_T4]
    decide +kernel
  · apply build_T4 <;> simp only [h]

theorem RoundTrip.tMul (rs : Reg) (rd : Reg) :
    Statement (.tMul rs rd) := by
  intro h
  simp only [Instr.wf, Bool.and_eq_true] at h
  refine (decodeThumb_of 24 rfl ?_).trans (congrArg some ?_)
  · rw [index_T4]
    decide +kernel
  · apply build_T4 <;> simp only [h]

theorem RoundTrip.tBic (rs : Reg) (rd : Reg) :
    Statement (.tBic rs rd) := by
  intro h
  simp only [Instr.wf, Bool.and_eq_true] at h
  refine (decodeThumb_of 25 rfl ?_).trans (congrArg some ?_)
  · rw [index_T4]
    decide +kernel
  · apply build_T4 <;> simp only [h]

theorem RoundTrip.tMvn (rs : Reg) (rd : Reg) :
    Statement (.tMvn rs rd) := by
  intro h
  simp only [Instr.wf, Bool.and_eq_true] at h
  refine (decodeThumb_of 26 rfl ?_).trans (congrArg some ?_)
  · rw [index_T4]
    decide +kernel
  · apply build_T4 <;> simp only [h]

theorem RoundTrip.tAddHi (src : Reg) (dst : Reg) :
    Statement (.tAddHi src dst) := by
  intro _
  refine (decodeThumb_of 27 rfl ?_).trans (congrArg some ?_)
  · rw [index_T5]
    exact (by decide +kernel : ∀ (x0 : BitVec 1) (x1 : BitVec 1),
      thumbSpread (0b010001#6 ++ 0b00#2 ++ x0 ++ x1) &&& 0xFF00#16 = 0x4400#16) _ _
  · apply build_T5

theorem RoundTrip.tCmpHi (src : Reg) (dst : Reg) :
    Statement (.tCmpHi src dst) := by
  intro _
  refine (decodeThumb_of 28 rfl ?_).trans (congrArg some ?_)
  · rw [index_T5]
    exact (by decide +kernel : ∀ (x0 : BitVec 1) (x1 : BitVec 1),
      thumbSpread (0b010001#6 ++ 0b01#2 ++ x0 ++ x1) &&& 0xFF00#16 = 0x4500#16) _ _
  · apply build_T5

theorem RoundTrip.tMovHi (src : Reg) (dst : Reg) :
    Statement (.tMovHi src dst) := by
  intro _
  refine (decodeThumb_of 29 rfl ?_).trans (congrArg some ?_)
  · rw [index_T5]
    exact (by decide +kernel : ∀ (x0 : BitVec 1) (x1 : BitVec 1),
      thumbSpread (0b010001#6 ++ 0b10#2 ++ x0 ++ x1) &&& 0xFF00#16 = 0x4600#16) _ _
  · apply build_T5

theorem RoundTrip.tBx (h1 : Bool) (src : Reg) :
    Statement (.tBx h1 src) := by
  intro _
  refine (decodeThumb_of 30 rfl ?_).trans (congrArg some ?_)
  · rw [index_T5Bx]
    exact (by decide +kernel : ∀ (x0 : BitVec 1) (x1 : BitVec 1),
      thumbSpread (0b010001#6 ++ 0b11#2 ++ x0 ++ x1) &&& 0xFF00#16 = 0x4700#16) _ _
  · apply build_T5bx

theorem RoundTrip.tLdrPc (rd : Reg) (imm8 : BitVec 8) :
    Statement (.tLdrPc rd imm8) := by
  intro h
  simp only [Instr.wf] at h
  refine (decodeThumb_of 31 rfl ?_).trans (congrArg some ?_)
  · rw [index_T6]
    exact (by decide +kernel : ∀ (x0 : BitVec 3) (x1 : BitVec 2),
      thumbSpread (0b01001#5 ++ x0 ++ x1) &&& 0xF800#16 = 0x4800#16) _ _
  · exact build_T6 (h_rd := h) ..

theorem RoundTrip.tStrReg (ro : Reg) (rb : Reg) (rd : Reg) :
    Statement (.tStrReg ro rb rd) := by
  intro h
  simp only [Instr.wf, Bool.and_eq_true] at h
  refine (decodeThumb_of 32 rfl ?_).trans (congrArg some ?_)
  · rw [index_T7]
    exact (by decide +kernel : ∀ (x0 : BitVec 3),
      thumbSpread (0b0101#4 ++ (BitVec.ofBool false) ++ (BitVec.ofBool false) ++ 0b0#1 ++ x0) &&& 0xFE00#16 = 0x5000#16) _
  · apply build_T7 <;> simp only [h]

theorem RoundTrip.tStrhReg (ro : Reg) (rb : Reg) (rd : Reg) :
    Statement (.tStrhReg ro rb rd) := by
  intro h
  simp only [Instr.wf, Bool.and_eq_true] at h
  refine (decodeThumb_of 33 rfl ?_).trans (congrArg some ?_)
  · rw [index_T8]
    exact (by decide +kernel : ∀ (x0 : BitVec 3),
      thumbSpread (0b0101#4 ++ (BitVec.ofBool false) ++ (BitVec.ofBool false) ++ 0b1#1 ++ x0) &&& 0xFE00#16 = 0x5200#16) _
  · apply build_T8 <;> simp only [h]

theorem RoundTrip.tStrbReg (ro : Reg) (rb : Reg) (rd : Reg) :
    Statement (.tStrbReg ro rb rd) := by
  intro h
  simp only [Instr.wf, Bool.and_eq_true] at h
  refine (decodeThumb_of 34 rfl ?_).trans (congrArg some ?_)
  · rw [index_T7]
    exact (by decide +kernel : ∀ (x0 : BitVec 3),
      thumbSpread (0b0101#4 ++ (BitVec.ofBool false) ++ (BitVec.ofBool true) ++ 0b0#1 ++ x0) &&& 0xFE00#16 = 0x5400#16) _
  · apply build_T7 <;> simp only [h]

theorem RoundTrip.tLdsbReg (ro : Reg) (rb : Reg) (rd : Reg) :
    Statement (.tLdsbReg ro rb rd) := by
  intro h
  simp only [Instr.wf, Bool.and_eq_true] at h
  refine (decodeThumb_of 35 rfl ?_).trans (congrArg some ?_)
  · rw [index_T8]
    exact (by decide +kernel : ∀ (x0 : BitVec 3),
      thumbSpread (0b0101#4 ++ (BitVec.ofBool false) ++ (BitVec.ofBool true) ++ 0b1#1 ++ x0) &&& 0xFE00#16 = 0x5600#16) _
  · apply build_T8 <;> simp only [h]

theorem RoundTrip.tLdrReg (ro : Reg) (rb : Reg) (rd : Reg) :
    Statement (.tLdrReg ro rb rd) := by
  intro h
  simp only [Instr.wf, Bool.and_eq_true] at h
  refine (decodeThumb_of 36 rfl ?_).trans (congrArg some ?_)
  · rw [index_T7]
    exact (by decide +kernel : ∀ (x0 : BitVec 3),
      thumbSpread (0b0101#4 ++ (BitVec.ofBool true) ++ (BitVec.ofBool false) ++ 0b0#1 ++ x0) &&& 0xFE00#16 = 0x5800#16) _
  · apply build_T7 <;> simp only [h]

theorem RoundTrip.tLdrhReg (ro : Reg) (rb : Reg) (rd : Reg) :
    Statement (.tLdrhReg ro rb rd) := by
  intro h
  simp only [Instr.wf, Bool.and_eq_true] at h
  refine (decodeThumb_of 37 rfl ?_).trans (congrArg some ?_)
  · rw [index_T8]
    exact (by decide +kernel : ∀ (x0 : BitVec 3),
      thumbSpread (0b0101#4 ++ (BitVec.ofBool true) ++ (BitVec.ofBool false) ++ 0b1#1 ++ x0) &&& 0xFE00#16 = 0x5A00#16) _
  · apply build_T8 <;> simp only [h]

theorem RoundTrip.tLdrbReg (ro : Reg) (rb : Reg) (rd : Reg) :
    Statement (.tLdrbReg ro rb rd) := by
  intro h
  simp only [Instr.wf, Bool.and_eq_true] at h
  refine (decodeThumb_of 38 rfl ?_).trans (congrArg some ?_)
  · rw [index_T7]
    exact (by decide +kernel : ∀ (x0 : BitVec 3),
      thumbSpread (0b0101#4 ++ (BitVec.ofBool true) ++ (BitVec.ofBool true) ++ 0b0#1 ++ x0) &&& 0xFE00#16 = 0x5C00#16) _
  · apply build_T7 <;> simp only [h]

theorem RoundTrip.tLdshReg (ro : Reg) (rb : Reg) (rd : Reg) :
    Statement (.tLdshReg ro rb rd) := by
  intro h
  simp only [Instr.wf, Bool.and_eq_true] at h
  refine (decodeThumb_of 39 rfl ?_).trans (congrArg some ?_)
  · rw [index_T8]
    exact (by decide +kernel : ∀ (x0 : BitVec 3),
      thumbSpread (0b0101#4 ++ (BitVec.ofBool true) ++ (BitVec.ofBool true) ++ 0b1#1 ++ x0) &&& 0xFE00#16 = 0x5E00#16) _
  · apply build_T8 <;> simp only [h]

theorem RoundTrip.tStrImm (offset5 : BitVec 5) (rb : Reg) (rd : Reg) :
    Statement (.tStrImm offset5 rb rd) := by
  intro h
  simp only [Instr.wf, Bool.and_eq_true] at h
  refine (decodeThumb_of 40 rfl ?_).trans (congrArg some ?_)
  · rw [index_T9]
    exact (by decide +kernel : ∀ (x0 : BitVec 5),
      thumbSpread (0b011#3 ++ (BitVec.ofBool false) ++ (BitVec.ofBool false) ++ x0) &&& 0xF800#16 = 0x6000#16) _
  · apply build_T9 <;> simp only [h]

theorem RoundTrip.tLdrImm (offset5 : BitVec 5) (rb : Reg) (rd : Reg) :
    Statement (.tLdrImm offset5 rb rd) := by
  intro h
  simp only [Instr.wf, Bool.and_eq_true] at h
  refine (decodeThumb_of 41 rfl ?_).trans (congrArg some ?_)
  · rw [index_T9]
    exact (by decide +kernel : ∀ (x0 : BitVec 5),
      thumbSpread (0b011#3 ++ (BitVec.ofBool false) ++ (BitVec.ofBool true) ++ x0) &&& 0xF800#16 = 0x6800#16) _
  · apply build_T9 <;> simp only [h]

theorem RoundTrip.tStrbImm (offset5 : BitVec 5) (rb : Reg) (rd : Reg) :
    Statement (.tStrbImm offset5 rb rd) := by
  intro h
  simp only [Instr.wf, Bool.and_eq_true] at h
  refine (decodeThumb_of 42 rfl ?_).trans (congrArg some ?_)
  · rw [index_T9]
    exact (by decide +kernel : ∀ (x0 : BitVec 5),
      thumbSpread (0b011#3 ++ (BitVec.ofBool true) ++ (BitVec.ofBool false) ++ x0) &&& 0xF800#16 = 0x7000#16) _
  · apply build_T9 <;> simp only [h]

theorem RoundTrip.tLdrbImm (offset5 : BitVec 5) (rb : Reg) (rd : Reg) :
    Statement (.tLdrbImm offset5 rb rd) := by
  intro h
  simp only [Instr.wf, Bool.and_eq_true] at h
  refine (decodeThumb_of 43 rfl ?_).trans (congrArg some ?_)
  · rw [index_T9]
    exact (by decide +kernel : ∀ (x0 : BitVec 5),
      thumbSpread (0b011#3 ++ (BitVec.ofBool true) ++ (BitVec.ofBool true) ++ x0) &&& 0xF800#16 = 0x7800#16) _
  · apply build_T9 <;> simp only [h]

theorem RoundTrip.tStrhImm (offset5 : BitVec 5) (rb : Reg) (rd : Reg) :
    Statement (.tStrhImm offset5 rb rd) := by
  intro h
  simp only [Instr.wf, Bool.and_eq_true] at h
  refine (decodeThumb_of 44 rfl ?_).trans (congrArg some ?_)
  · rw [index_T10]
    exact (by decide +kernel : ∀ (x0 : BitVec 5),
      thumbSpread (0b1000#4 ++ (BitVec.ofBool false) ++ x0) &&& 0xF800#16 = 0x8000#16) _
  · apply build_T10 <;> simp only [h]

theorem RoundTrip.tLdrhImm (offset5 : BitVec 5) (rb : Reg) (rd : Reg) :
    Statement (.tLdrhImm offset5 rb rd) := by
  intro h
  simp only [Instr.wf, Bool.and_eq_true] at h
  refine (decodeThumb_of 45 rfl ?_).trans (congrArg some ?_)
  · rw [index_T10]
    exact (by decide +kernel : ∀ (x0 : BitVec 5),
      thumbSpread (0b1000#4 ++ (BitVec.ofBool true) ++ x0) &&& 0xF800#16 = 0x8800#16) _
  · apply build_T10 <;> simp only [h]

theorem RoundTrip.tStrSp (rd : Reg) (imm8 : BitVec 8) :
    Statement (.tStrSp rd imm8) := by
  intro h
  simp only [Instr.wf] at h
  refine (decodeThumb_of 46 rfl ?_).trans (congrArg some ?_)
  · rw [index_T11]
    exact (by decide +kernel : ∀ (x0 : BitVec 3) (x1 : BitVec 2),
      thumbSpread (0b1001#4 ++ (BitVec.ofBool false) ++ x0 ++ x1) &&& 0xF800#16 = 0x9000#16) _ _
  · exact build_T11 (h_rd := h) ..

theorem RoundTrip.tLdrSp (rd : Reg) (imm8 : BitVec 8) :
    Statement (.tLdrSp rd imm8) := by
  intro h
  simp only [Instr.wf] at h
  refine (decodeThumb_of 47 rfl ?_).trans (congrArg some ?_)
  · rw [index_T11]
    exact (by decide +kernel : ∀ (x0 : BitVec 3) (x1 : BitVec 2),
      thumbSpread (0b1001#4 ++ (BitVec.ofBool true) ++ x0 ++ x1) &&& 0xF800#16 = 0x9800#16) _ _
  · exact build_T11 (h_rd := h) ..

theorem RoundTrip.tAddPc (rd : Reg) (imm8 : BitVec 8) :
    Statement (.tAddPc rd imm8) := by
  intro h
  simp only [Instr.wf] at h
  refine (decodeThumb_of 48 rfl ?_).trans (congrArg some ?_)
  · rw [index_T12]
    exact (by decide +kernel : ∀ (x0 : BitVec 3) (x1 : BitVec 2),
      thumbSpread (0b1010#4 ++ (BitVec.ofBool false) ++ x0 ++ x1) &&& 0xF800#16 = 0xA000#16) _ _
  · exact build_T12 (h_rd := h) ..

theorem RoundTrip.tAddSp (rd : Reg) (imm8 : BitVec 8) :
    Statement (.tAddSp rd imm8) := by
  intro h
  simp only [Instr.wf] at h
  refine (decodeThumb_of 49 rfl ?_).trans (congrArg some ?_)
  · rw [index_T12]
    exact (by decide +kernel : ∀ (x0 : BitVec 3) (x1 : BitVec 2),
      thumbSpread (0b1010#4 ++ (BitVec.ofBool true) ++ x0 ++ x1) &&& 0xF800#16 = 0xA800#16) _ _
  · exact build_T12 (h_rd := h) ..

theorem RoundTrip.tIncSp (imm7 : BitVec 7) :
    Statement (.tIncSp imm7) := by
  intro _
  refine (decodeThumb_of 50 rfl ?_).trans (congrArg some ?_)
  · rw [index_T13]
    exact (by decide +kernel : ∀ (x0 : BitVec 1),
      thumbSpread (0b10110000#8 ++ (BitVec.ofBool false) ++ x0) &&& 0xFF80#16 = 0xB000#16) _
  · apply build_T13

theorem RoundTrip.tDecSp (imm7 : BitVec 7) :
    Statement (.tDecSp imm7) := by
  intro _
  refine (decodeThumb_of 51 rfl ?_).trans (congrArg some ?_)
  · rw [index_T13]
    exact (by decide +kernel : ∀ (x0 : BitVec 1),
      thumbSpread (0b10110000#8 ++ (BitVec.ofBool true) ++ x0) &&& 0xFF80#16 = 0xB080#16) _
  · apply build_T13

theorem RoundTrip.tPush (lr : Bool) (list : BitVec 8) :
    Statement (.tPush lr list) := by
  intro _
  refine (decodeThumb_of 52 rfl ?_).trans (congrArg some ?_)
  · rw [index_T14]
    exact (by decide +kernel : ∀ (x0 : BitVec 1) (x1 : BitVec 2),
      thumbSpread (0b1011#4 ++ (BitVec.ofBool false) ++ 0b10#2 ++ x0 ++ x1) &&& 0xFE00#16 = 0xB400#16) _ _
  · apply build_T14push

theorem RoundTrip.tPop (pc : Bool) (list : BitVec 8) :
    Statement (.tPop pc list) := by
  intro _
  refine (decodeThumb_of 53 rfl ?_).trans (congrArg some ?_)
  · rw [index_T14]
    exact (by decide +kernel : ∀ (x0 : BitVec 1) (x1 : BitVec 2),
      thumbSpread (0b1011#4 ++ (BitVec.ofBool true) ++ 0b10#2 ++ x0 ++ x1) &&& 0xFE00#16 = 0xBC00#16) _ _
  · apply build_T14pop

theorem RoundTrip.tStmia (rb : Reg) (list : BitVec 8) :
    Statement (.tStmia rb list) := by
  intro h
  simp only [Instr.wf] at h
  refine (decodeThumb_of 54 rfl ?_).trans (congrArg some ?_)
  · rw [index_T15]
    exact (by decide +kernel : ∀ (x0 : BitVec 3) (x1 : BitVec 2),
      thumbSpread (0b1100#4 ++ (BitVec.ofBool false) ++ x0 ++ x1) &&& 0xF800#16 = 0xC000#16) _ _
  · exact build_T15 (h_rb := h) ..

theorem RoundTrip.tLdmia (rb : Reg) (list : BitVec 8) :
    Statement (.tLdmia rb list) := by
  intro h
  simp only [Instr.wf] at h
  refine (decodeThumb_of 55 rfl ?_).trans (congrArg some ?_)
  · rw [index_T15]
    exact (by decide +kernel : ∀ (x0 : BitVec 3) (x1 : BitVec 2),
      thumbSpread (0b1100#4 ++ (BitVec.ofBool true) ++ x0 ++ x1) &&& 0xF800#16 = 0xC800#16) _ _
  · exact build_T15 (h_rb := h) ..

theorem RoundTrip.tBeq (soffset8 : BitVec 8) :
    Statement (.tBeq soffset8) := by
  intro _
  refine (decodeThumb_of 56 rfl ?_).trans (congrArg some ?_)
  · rw [index_T16]
    exact (by decide +kernel : ∀ (x0 : BitVec 2),
      thumbSpread (0b1101#4 ++ 0b0000#4 ++ x0) &&& 0xFF00#16 = 0xD000#16) _
  · apply build_T16

theorem RoundTrip.tBne (soffset8 : BitVec 8) :
    Statement (.tBne soffset8) := by
  intro _
  refine (decodeThumb_of 57 rfl ?_).trans (congrArg some ?_)
  · rw [index_T16]
    exact (by decide +kernel : ∀ (x0 : BitVec 2),
      thumbSpread (0b1101#4 ++ 0b0001#4 ++ x0) &&& 0xFF00#16 = 0xD100#16) _
  · apply build_T16

theorem RoundTrip.tBcs (soffset8 : BitVec 8) :
    Statement (.tBcs soffset8) := by
  intro _
  refine (decodeThumb_of 58 rfl ?_).trans (congrArg some ?_)
  · rw [index_T16]
    exact (by decide +kernel : ∀ (x0 : BitVec 2),
      thumbSpread (0b1101#4 ++ 0b0010#4 ++ x0) &&& 0xFF00#16 = 0xD200#16) _
  · apply build_T16

theorem RoundTrip.tBcc (soffset8 : BitVec 8) :
    Statement (.tBcc soffset8) := by
  intro _
  refine (decodeThumb_of 59 rfl ?_).trans (congrArg some ?_)
  · rw [index_T16]
    exact (by decide +kernel : ∀ (x0 : BitVec 2),
      thumbSpread (0b1101#4 ++ 0b0011#4 ++ x0) &&& 0xFF00#16 = 0xD300#16) _
  · apply build_T16

theorem RoundTrip.tBmi (soffset8 : BitVec 8) :
    Statement (.tBmi soffset8) := by
  intro _
  refine (decodeThumb_of 60 rfl ?_).trans (congrArg some ?_)
  · rw [index_T16]
    exact (by decide +kernel : ∀ (x0 : BitVec 2),
      thumbSpread (0b1101#4 ++ 0b0100#4 ++ x0) &&& 0xFF00#16 = 0xD400#16) _
  · apply build_T16

theorem RoundTrip.tBpl (soffset8 : BitVec 8) :
    Statement (.tBpl soffset8) := by
  intro _
  refine (decodeThumb_of 61 rfl ?_).trans (congrArg some ?_)
  · rw [index_T16]
    exact (by decide +kernel : ∀ (x0 : BitVec 2),
      thumbSpread (0b1101#4 ++ 0b0101#4 ++ x0) &&& 0xFF00#16 = 0xD500#16) _
  · apply build_T16

theorem RoundTrip.tBvs (soffset8 : BitVec 8) :
    Statement (.tBvs soffset8) := by
  intro _
  refine (decodeThumb_of 62 rfl ?_).trans (congrArg some ?_)
  · rw [index_T16]
    exact (by decide +kernel : ∀ (x0 : BitVec 2),
      thumbSpread (0b1101#4 ++ 0b0110#4 ++ x0) &&& 0xFF00#16 = 0xD600#16) _
  · apply build_T16

theorem RoundTrip.tBvc (soffset8 : BitVec 8) :
    Statement (.tBvc soffset8) := by
  intro _
  refine (decodeThumb_of 63 rfl ?_).trans (congrArg some ?_)
  · rw [index_T16]
    exact (by decide +kernel : ∀ (x0 : BitVec 2),
      thumbSpread (0b1101#4 ++ 0b0111#4 ++ x0) &&& 0xFF00#16 = 0xD700#16) _
  · apply build_T16

theorem RoundTrip.tBhi (soffset8 : BitVec 8) :
    Statement (.tBhi soffset8) := by
  intro _
  refine (decodeThumb_of 64 rfl ?_).trans (congrArg some ?_)
  · rw [index_T16]
    exact (by decide +kernel : ∀ (x0 : BitVec 2),
      thumbSpread (0b1101#4 ++ 0b1000#4 ++ x0) &&& 0xFF00#16 = 0xD800#16) _
  · apply build_T16

theorem RoundTrip.tBls (soffset8 : BitVec 8) :
    Statement (.tBls soffset8) := by
  intro _
  refine (decodeThumb_of 65 rfl ?_).trans (congrArg some ?_)
  · rw [index_T16]
    exact (by decide +kernel : ∀ (x0 : BitVec 2),
      thumbSpread (0b1101#4 ++ 0b1001#4 ++ x0) &&& 0xFF00#16 = 0xD900#16) _
  · apply build_T16

theorem RoundTrip.tBge (soffset8 : BitVec 8) :
    Statement (.tBge soffset8) := by
  intro _
  refine (decodeThumb_of 66 rfl ?_).trans (congrArg some ?_)
  · rw [index_T16]
    exact (by decide +kernel : ∀ (x0 : BitVec 2),
      thumbSpread (0b1101#4 ++ 0b1010#4 ++ x0) &&& 0xFF00#16 = 0xDA00#16) _
  · apply build_T16

theorem RoundTrip.tBlt (soffset8 : BitVec 8) :
    Statement (.tBlt soffset8) := by
  intro _
  refine (decodeThumb_of 67 rfl ?_).trans (congrArg some ?_)
  · rw [index_T16]
    exact (by decide +kernel : ∀ (x0 : BitVec 2),
      thumbSpread (0b1101#4 ++ 0b1011#4 ++ x0) &&& 0xFF00#16 = 0xDB00#16) _
  · apply build_T16

theorem RoundTrip.tBgt (soffset8 : BitVec 8) :
    Statement (.tBgt soffset8) := by
  intro _
  refine (decodeThumb_of 68 rfl ?_).trans (congrArg some ?_)
  · rw [index_T16]
    exact (by decide +kernel : ∀ (x0 : BitVec 2),
      thumbSpread (0b1101#4 ++ 0b1100#4 ++ x0) &&& 0xFF00#16 = 0xDC00#16) _
  · apply build_T16

theorem RoundTrip.tBle (soffset8 : BitVec 8) :
    Statement (.tBle soffset8) := by
  intro _
  refine (decodeThumb_of 69 rfl ?_).trans (congrArg some ?_)
  · rw [index_T16]
    exact (by decide +kernel : ∀ (x0 : BitVec 2),
      thumbSpread (0b1101#4 ++ 0b1101#4 ++ x0) &&& 0xFF00#16 = 0xDD00#16) _
  · apply build_T16

theorem RoundTrip.tSwi (comment : BitVec 8) :
    Statement (.tSwi comment) := by
  intro _
  refine (decodeThumb_of 70 rfl ?_).trans (congrArg some ?_)
  · rw [index_T17]
    exact (by decide +kernel : ∀ (x0 : BitVec 2),
      thumbSpread (0b11011111#8 ++ x0) &&& 0xFF00#16 = 0xDF00#16) _
  · apply build_T17

theorem RoundTrip.tB (offset11 : BitVec 11) :
    Statement (.tB offset11) := by
  intro _
  refine (decodeThumb_of 71 rfl ?_).trans (congrArg some ?_)
  · rw [index_T18]
    exact (by decide +kernel : ∀ (x0 : BitVec 5),
      thumbSpread (0b11100#5 ++ x0) &&& 0xF800#16 = 0xE000#16) _
  · apply build_T18

theorem RoundTrip.tBlHigh (offset11 : BitVec 11) :
    Statement (.tBlHigh offset11) := by
  intro _
  refine (decodeThumb_of 72 rfl ?_).trans (congrArg some ?_)
  · rw [index_T19]
    exact (by decide +kernel : ∀ (x0 : BitVec 5),
      thumbSpread (0b1111#4 ++ (BitVec.ofBool false) ++ x0) &&& 0xF800#16 = 0xF000#16) _
  · apply build_T19

theorem RoundTrip.tBlLow (offset11 : BitVec 11) :
    Statement (.tBlLow offset11) := by
  intro _
  refine (decodeThumb_of 73 rfl ?_).trans (congrArg some ?_)
  · rw [index_T19]
    exact (by decide +kernel : ∀ (x0 : BitVec 5),
      thumbSpread (0b1111#4 ++ (BitVec.ofBool true) ++ x0) &&& 0xF800#16 = 0xF800#16) _
  · apply build_T19

theorem RoundTrip.tUndefB1 : Statement .tUndefB1 := fun _ => by decide +kernel

theorem RoundTrip.tUndefB2 : Statement .tUndefB2 := fun _ => by decide +kernel

theorem RoundTrip.tUndefB6 : Statement .tUndefB6 := fun _ => by decide +kernel

theorem RoundTrip.tUndefB8 : Statement .tUndefB8 := fun _ => by decide +kernel

theorem RoundTrip.tUndefBe : Statement .tUndefBe := fun _ => by decide +kernel

theorem RoundTrip.tUndefDe : Statement .tUndefDe := fun _ => by decide +kernel

theorem RoundTrip.tUndefE8 : Statement .tUndefE8 := fun _ => by decide +kernel

end Sys2Proof.Laws
end

