-- ==== Sys2Proof/Laws/Reach.lean ====
section
/-! SUPPORT. What an instruction can do, said once: every meaning that answers a next state got there by the operations of
`Reach`, so that a property kept by each of them is kept by every instruction (`exec_reach`). -/

namespace Sys2Proof.Machine

/-- What an instruction under way has been led to, from the state `s`, by the operations a meaning is built of. `A` is what a
change of CPSR.T needs, `B` what an exception entry needs. -/
inductive Reach (A B : Prop) (s : State) : Run → Prop
  | start : Reach A B s (Run.start s)
  | flags {r : Run} (h : Reach A B s r) (n z c v : Bool) : Reach A B s (r.map (·.setFlags n z c v))
  | called {r : Run} (h : Reach A B s r) (c : OutEvent) : Reach A B s (r.map (·.called c))
  | setX {r : Run} (h : Reach A B s r) (i : Reg) (v : Word) : Reach A B s (r.setX i v)
  | setXusr {r : Run} (h : Reach A B s r) (i : Reg) (v : Word) : Reach A B s (r.setXusr i v)
  | jump {r : Run} (h : Reach A B s r) (v : Word) : Reach A B s (r.jump v)
  | setSpsr {r : Run} (h : Reach A B s r) (v : Word) : Reach A B s (r.map (·.setSpsrCur v))
  | exchange {r : Run} (h : Reach A B s r) (hA : A) (b : Bool) (v : Word) :
      Reach A B s ((r.map fun t => t.setCpsr (Psr.withT t.cpsr b)).jump v)
  | restore {r q : Run} (h : Reach A B s r) (hA : r.st.bankMode.hasSpsr = true → A) (v : Word)
      (he : r.exceptionReturn v = .ok q) : Reach A B s q
  | entry {r : Run} (h : Reach A B s r) (hA : A) (hB : B) (ra : Word) :
      Reach A B s { r with st := r.st.enterException .svc Config.vecSwi ra, redirected := true }
  | msr {r : Run} (h : Reach A B s r) (mask : BitVec 4) (v : Word) (t : State)
      (he : (if (r.st.msrCpsrMask mask).extractLsb' 0 8 = 0#8
          then .ok (r.st.setCpsr (mergeBits r.st.cpsr v (r.st.msrCpsrMask mask)))
          else (r.st.setCpsr (mergeBits r.st.cpsr v (r.st.msrCpsrMask mask))).resolveMode) = .ok t) :
      Reach A B s { r with st := t }

/-- The instruction ends in a state it reaches. -/
def Reaches (A B : Prop) (s : State) (o : Outcome) : Prop :=
  ∀ t, o = .next t → ∃ r n, Reach A B s r ∧ t = r.result n

section
variable {A B : Prop} {s : State}

theorem reaches_finish {r : Run} (h : Reach A B s r) (n : Nat) : Reaches A B s (r.finish n) := by
  intro t ht
  rw [Run.finish_eq] at ht
  exact ⟨r, n, h, by cases ht; rfl⟩

theorem reaches_fault (f : Fault) : Reaches A B s (.fault f) := fun _ h => nomatch h
theorem reaches_refused (f : Refusal) : Reaches A B s (.refused f) := fun _ h => nomatch h

theorem reaches_finishOrFault {x : Except Fault Run} (h : ∀ r, x = .ok r → Reach A B s r) (n : Nat) :
    Reaches A B s (finishOrFault x n) := by
  cases x with
  | ok r => exact reaches_finish (h r rfl) n
  | error f => exact reaches_fault f

theorem reach_ite {r : Run} {c : Bool} {f : Run → Run} (h : Reach A B s r) (hf : Reach A B s (f r)) :
    Reach A B s (if c then f r else r) := by cases c <;> assumption

theorem reaches_dataProcessing {op : AluOp} {setFlags : Bool} {rd : Reg} {a : Word} {b : Shifted} {regShift : Bool}
    (hA : op.writesRd = true → setFlags = true → rd = 15#4 → s.bankMode.hasSpsr = true → A) :
    Reaches A B s (dataProcessing op setFlags rd a b regShift s) := by
  unfold dataProcessing
  cases hw : op.writesRd
  · exact reaches_finish (.flags .start _ _ _ _) _
  · simp only [if_true]
    by_cases hr : (setFlags && decide (rd = 15#4)) = true
    · obtain ⟨h1, h2⟩ : setFlags = true ∧ rd = 15#4 := by simpa using hr
      rw [if_pos hr]
      exact reaches_finishOrFault (fun r he => .restore (.flags .start _ _ _ _) (fun h => hA hw h1 h2 h) _ he) _
    · rw [if_neg hr]
      cases setFlags
      · exact reaches_finish (.setX .start _ _) _
      · exact reaches_finish (.flags (.setX .start _ _) _ _ _ _) _

theorem reaches_multiplyShort (setFlags : Bool) (rd : Reg) (result : Word) (extra : Nat) :
    Reaches A B s (multiplyShort setFlags rd result extra s) := by
  unfold multiplyShort
  cases setFlags
  · exact reaches_finish (.setX .start _ _) _
  · exact reaches_finish (.flags (.setX .start _ _) _ _ _ _) _

theorem reaches_multiplyLong (setFlags : Bool) (rdHi rdLo : Reg) (p : BitVec 64) (extra : Nat) :
    Reaches A B s (multiplyLong setFlags rdHi rdLo p extra s) := by
  unfold multiplyLong
  cases setFlags
  · exact reaches_finish (.setX (.setX .start _ _) _ _) _
  · exact reaches_finish (.flags (.setX (.setX .start _ _) _ _) _ _ _ _) _

theorem reach_writeBack {r : Run} (h : Reach A B s r) (rn : Reg) (a : Addressed) : Reach A B s (r.writeBack rn a) := by
  unfold Run.writeBack; split
  · exact .setX h _ _
  · exact h

theorem reaches_loadTransfer (rn rd : Reg) (a : Addressed) (m : Access) : Reaches A B s (loadTransfer rn rd a m s) :=
  reaches_finish (.setX (reach_writeBack (.called .start _) _ _) _ _) _

theorem reaches_loadHalfTransfer (rn rd : Reg) (a : Addressed) (m : Access) :
    Reaches A B s (loadHalfTransfer rn rd a m s) := by
  unfold loadHalfTransfer; split
  · exact reaches_refused _
  · exact reaches_loadTransfer _ _ _ _

theorem reach_storeWord {r : Run} (h : Reach A B s r) (a v : Word) : Reach A B s (r.map (·.storeWord a v)) :=
  .called h _
theorem reach_storeHalf {r : Run} (h : Reach A B s r) (a v : Word) : Reach A B s (r.map (·.storeHalf a v)) :=
  .called h _
theorem reach_storeByte {r : Run} (h : Reach A B s r) (a v : Word) : Reach A B s (r.map (·.storeByte a v)) :=
  .called h _

theorem reaches_storeTransfer {stored : State} (h : Reach A B s { Run.start s with st := stored }) (rn : Reg) (a : Addressed) :
    Reaches A B s (storeTransfer rn a stored s) :=
  reaches_finish (reach_writeBack h _ _) _

theorem reaches_storeWord (rn : Reg) (a : Addressed) (addr v : Word) :
    Reaches A B s (storeTransfer rn a (s.storeWord addr v) s) := reaches_storeTransfer (reach_storeWord .start addr v) _ _
theorem reaches_storeHalf (rn : Reg) (a : Addressed) (addr v : Word) :
    Reaches A B s (storeTransfer rn a (s.storeHalf addr v) s) := reaches_storeTransfer (reach_storeHalf .start addr v) _ _
theorem reaches_storeByte (rn : Reg) (a : Addressed) (addr v : Word) :
    Reaches A B s (storeTransfer rn a (s.storeByte addr v) s) := reaches_storeTransfer (reach_storeByte .start addr v) _ _

theorem reaches_swapWord (rd : Reg) (m : Access) (addr v : Word) :
    Reaches A B s (swapTransfer rd m (·.storeWord addr v) s) :=
  reaches_finish (.setX (reach_storeWord (.called .start _) _ _) _ _) _
theorem reaches_swapByte (rd : Reg) (m : Access) (addr v : Word) :
    Reaches A B s (swapTransfer rd m (·.storeByte addr v) s) :=
  reaches_finish (.setX (reach_storeByte (.called .start _) _ _) _ _) _

theorem reach_blockWriteBack {r : Run} (h : Reach A B s r) (b : Block) (first : Bool) :
    Reach A B s (r.blockWriteBack b first) := by
  unfold Run.blockWriteBack; split
  · exact .setX h _ _
  · exact h

theorem reach_blockStore (b : Block) (regs : List Reg) {addr : Word} {first : Bool} {r : Run} (h : Reach A B s r) :
    Reach A B s (blockStore b regs addr first r) := by
  induction regs generalizing addr first r with
  | nil => exact h
  | cons i rest ih => exact ih (reach_blockWriteBack (reach_storeWord h addr (r.st.blockValue b i)) _ _)

theorem reach_blockLoad {b : Block} (regs : List Reg) (hA : b.sBit = true → 15#4 ∈ regs → A) {addr : Word} {first : Bool}
    {r q : Run} (h : Reach A B s r) (he : blockLoad b regs addr first r = .ok q) : Reach A B s q := by
  induction regs generalizing addr first r with
  | nil => cases he; exact h
  | cons i rest ih =>
    have ih' := fun r' h' he' => ih (fun hs hm => hA hs (List.mem_cons_of_mem _ hm)) (addr := addr + 4#32) (first := false) (r := r') h' he'
    rw [blockLoad] at he
    have hb := reach_blockWriteBack (.called h (r.st.readWord addr).call) b first
    split at he
    · rename_i q' hq'
      refine ih' q' ?_ he
      unfold Run.blockWriteReg at hq'
      split at hq'
      · rename_i hc
        obtain ⟨h1, h2⟩ : i = 15#4 ∧ b.sBit = true := by simpa using hc
        exact .restore hb (fun _ => hA h2 (h1 ▸ List.mem_cons_self)) _ hq'
      · cases hq'
        split
        · exact .setXusr hb _ _
        · exact .setX hb _ _
    · cases he

theorem mem_listedRegs {list : BitVec 16} (h : 15#4 ∈ listedRegs list) : list.getLsbD 15 = true := by
  simpa [listedRegs, allRegs] using h

theorem reaches_loadMultiple {p u sBit w : Bool} {rn : Reg} {list : BitVec 16}
    (hA : sBit = true → (list.getLsbD 15 = true ∨ list = 0#16) → A) :
    Reaches A B s (loadMultiple p u sBit w rn list s) := by
  refine reaches_finishOrFault (fun r he => ?_) _
  refine reach_blockLoad _ (fun hs hm => hA hs ?_) .start he
  have := mem_listedRegs hm
  unfold effectiveList at this
  by_cases h0 : list = 0#16
  · exact Or.inr h0
  · rw [if_neg h0] at this; exact Or.inl this

theorem reaches_storeMultiple (p u sBit w : Bool) (rn : Reg) (list : BitVec 16) :
    Reaches A B s (storeMultiple p u sBit w rn list s) :=
  reaches_finish (reach_blockStore _ _ .start) _

theorem reaches_branchExchange (hA : A) (v : Word) : Reaches A B s (branchExchange v s) :=
  reaches_finish (.exchange .start hA _ _) _

theorem reaches_noEffect (n : Nat) : Reaches A B s (noEffect s n) := reaches_finish .start _

theorem reaches_thumbCondBranch (c : Cond) (off : BitVec 8) : Reaches A B s (thumbCondBranch c off s) := by
  unfold thumbCondBranch; split
  · exact reaches_finish (.jump .start _) _
  · exact reaches_noEffect _

theorem reaches_unimplemented : Reaches A B s (unimplementedInstr s) := by
  unfold unimplementedInstr; split
  · exact reaches_noEffect _
  · exact reaches_fault _

theorem reaches_softwareInterrupt (hA : A) (hB : B) (ra : Word) : Reaches A B s (softwareInterrupt s ra) :=
  reaches_finish (.entry .start hA hB ra) _

theorem reaches_msrToCpsr (mask : BitVec 4) (v : Word) : Reaches A B s (msrToCpsr mask v s) := by
  unfold msrToCpsr
  simp only []
  split
  · rename_i t ht
    exact reaches_finish (Reach.msr (r := Run.start s) .start mask v t ht) _
  · exact reaches_fault _

theorem reaches_msrToSpsr (mask : BitVec 4) (v : Word) : Reaches A B s (msrToSpsr mask v s) :=
  reaches_finish (Reach.setSpsr .start _) _

theorem reaches_thumbShiftImm (kind : ShiftKind) (offset5 : BitVec 5) (rs rd : Reg) (hA : rd = 15#4 → A) :
    Reaches A B s (thumbShiftImm kind offset5 rs rd s) := reaches_dataProcessing fun _ _ h _ => hA h
theorem reaches_thumbShiftReg (kind : ShiftKind) (rs rd : Reg) (hA : rd = 15#4 → A) :
    Reaches A B s (thumbShiftReg kind rs rd s) := reaches_dataProcessing fun _ _ h _ => hA h
theorem reaches_thumbOp (op : AluOp) (rd : Reg) (a b : Word) (hA : op.writesRd = true → rd = 15#4 → A) :
    Reaches A B s (thumbOp op rd a b s) := reaches_dataProcessing fun hw _ h _ => hA hw h
theorem reaches_thumbMove (rd : Reg) (v : Word) : Reaches A B s (thumbMove rd v s) :=
  reaches_dataProcessing fun _ h => absurd h (by decide)

end

theorem mayChangeSet_dp {s : State} (op : AluOp) (c : Cond) (setFlags : Bool) (rn rd : Reg) (f : DpForm) (hw : op.writesRd = true)
    (hs : setFlags = true) (hr : rd = 15#4) (h : s.bankMode.hasSpsr = true) :
    mayChangeSet (dpInstr op c setFlags rn rd f) s := by
  subst hs hr
  have : ∃ op' c' rn' f', dpInstr op c true rn 15#4 f = dpInstr op' c' true rn' 15#4 f' ∧ op'.writesRd = true ∧
      s.bankMode.hasSpsr = true := ⟨op, c, rn, f, rfl, hw, h⟩
  revert this
  cases f <;> cases op <;> exact id

theorem reaches_dp (op : AluOp) (c : Cond) (setFlags : Bool) (rn rd : Reg) (f : DpForm) (s : State) :
    Reaches ((dpInstr op c setFlags rn rd f).wf = true → mayChangeSet (dpInstr op c setFlags rn rd f) s)
      (isSwi (dpInstr op c setFlags rn rd f) = true) s (exec (dpInstr op c setFlags rn rd f) s) := by
  have hA := fun hw hs hr h (_ : (dpInstr op c setFlags rn rd f).wf = true) =>
    mayChangeSet_dp (s := s) op c setFlags rn rd f hw hs hr h
  revert hA
  cases f <;> cases op <;> exact fun hA => reaches_dataProcessing hA

/-- Every instruction ends in a state it reaches; a well-formed one changes CPSR.T only as `mayChangeSet` says, and only
an SWI enters an exception. -/
theorem exec_reach (i : Instr) (s : State) : Reaches (i.wf = true → mayChangeSet i s) (isSwi i = true) s (exec i s) := by
  cases i
  case stm => exact reaches_storeMultiple _ _ _ _ _ _
  case ldm => exact reaches_loadMultiple fun h h' _ => ⟨h, h'⟩
  case tPush => exact reaches_storeMultiple _ _ _ _ _ _
  case tStmia => exact reaches_storeMultiple _ _ _ _ _ _
  case tPop => exact reaches_loadMultiple fun h => absurd h (by decide)
  case tLdmia => exact reaches_loadMultiple fun h => absurd h (by decide)
  case bx => exact reaches_branchExchange (fun _ => trivial) _
  case tBx => exact reaches_branchExchange (fun _ => trivial) _
  case swi => exact reaches_softwareInterrupt (fun _ => trivial) rfl _
  case tSwi => exact reaches_softwareInterrupt (fun _ => trivial) rfl _
  case b => exact reaches_finish (.jump .start _) _
  case bl => exact reaches_finish (.jump (.setX .start _ _) _) _
  case tB => exact reaches_finish (.jump .start _) _
  case tBlHigh => exact reaches_finish (.setX .start _ _) _
  case tBlLow => exact reaches_finish (.jump (.setX .start _ _) _) _
  case mrs => exact reaches_finish (.setX .start _ _) _
  case msrCpsrReg => exact reaches_msrToCpsr _ _
  case msrCpsrImm => exact reaches_msrToCpsr _ _
  case msrSpsrReg => exact reaches_msrToSpsr _ _
  case msrSpsrImm => exact reaches_msrToSpsr _ _
  case swp => exact reaches_swapWord _ _ _ _
  case swpb => exact reaches_swapByte _ _ _ _
  case mul => exact reaches_multiplyShort _ _ _ _
  case mla => exact reaches_multiplyShort _ _ _ _
  case umull => exact reaches_multiplyLong _ _ _ _ _
  case umlal => exact reaches_multiplyLong _ _ _ _ _
  case smull => exact reaches_multiplyLong _ _ _ _ _
  case smlal => exact reaches_multiplyLong _ _ _ _ _
  case tMul => exact reaches_multiplyShort _ _ _ _
  case andShiftImm c sf rn rd n k rm => exact reaches_dp .and c sf rn rd (.shiftImm n k rm) s
  case andShiftReg c sf rn rd rs k rm => exact reaches_dp .and c sf rn rd (.shiftReg rs k rm) s
  case andImm c sf rn rd r n => exact reaches_dp .and c sf rn rd (.imm r n) s
  case eorShiftImm c sf rn rd n k rm => exact reaches_dp .eor c sf rn rd (.shiftImm n k rm) s
  case eorShiftReg c sf rn rd rs k rm => exact reaches_dp .eor c sf rn rd (.shiftReg rs k rm) s
  case eorImm c sf rn rd r n => exact reaches_dp .eor c sf rn rd (.imm r n) s
  case subShiftImm c sf rn rd n k rm => exact reaches_dp .sub c sf rn rd (.shiftImm n k rm) s
  case subShiftReg c sf rn rd rs k rm => exact reaches_dp .sub c sf rn rd (.shiftReg rs k rm) s
  case subImm c sf rn rd r n => exact reaches_dp .sub c sf rn rd (.imm r n) s
  case rsbShiftImm c sf rn rd n k rm => exact reaches_dp .rsb c sf rn rd (.shiftImm n k rm) s
  case rsbShiftReg c sf rn rd rs k rm => exact reaches_dp .rsb c sf rn rd (.shiftReg rs k rm) s
  case rsbImm c sf rn rd r n => exact reaches_dp .rsb c sf rn rd (.imm r n) s
  case addShiftImm c sf rn rd n k rm => exact reaches_dp .add c sf rn rd (.shiftImm n k rm) s
  case addShiftReg c sf rn rd rs k rm => exact reaches_dp .add c sf rn rd (.shiftReg rs k rm) s
  case addImm c sf rn rd r n => exact reaches_dp .add c sf rn rd (.imm r n) s
  case adcShiftImm c sf rn rd n k rm => exact reaches_dp .adc c sf rn rd (.shiftImm n k rm) s
  case adcShiftReg c sf rn rd rs k rm => exact reaches_dp .adc c sf rn rd (.shiftReg rs k rm) s
  case adcImm c sf rn rd r n => exact reaches_dp .adc c sf rn rd (.imm r n) s
  case sbcShiftImm c sf rn rd n k rm => exact reaches_dp .sbc c sf rn rd (.shiftImm n k rm) s
  case sbcShiftReg c sf rn rd rs k rm => exact reaches_dp .sbc c sf rn rd (.shiftReg rs k rm) s
  case sbcImm c sf rn rd r n => exact reaches_dp .sbc c sf rn rd (.imm r n) s
  case rscShiftImm c sf rn rd n k rm => exact reaches_dp .rsc c sf rn rd (.shiftImm n k rm) s
  case rscShiftReg c sf rn rd rs k rm => exact reaches_dp .rsc c sf rn rd (.shiftReg rs k rm) s
  case rscImm c sf rn rd r n => exact reaches_dp .rsc c sf rn rd (.imm r n) s
  case tstShiftImm c rn rd n k rm => exact reaches_dp .tst c true rn rd (.shiftImm n k rm) s
  case tstShiftReg c rn rd rs k rm => exact reaches_dp .tst c true rn rd (.shiftReg rs k rm) s
  case tstImm c rn rd r n => exact reaches_dp .tst c true rn rd (.imm r n) s
  case teqShiftImm c rn rd n k rm => exact reaches_dp .teq c true rn rd (.shiftImm n k rm) s
  case teqShiftReg c rn rd rs k rm => exact reaches_dp .teq c true rn rd (.shiftReg rs k rm) s
  case teqImm c rn rd r n => exact reaches_dp .teq c true rn rd (.imm r n) s
  case cmpShiftImm c rn rd n k rm => exact reaches_dp .cmp c true rn rd (.shiftImm n k rm) s
  case cmpShiftReg c rn rd rs k rm => exact reaches_dp .cmp c true rn rd (.shiftReg rs k rm) s
  case cmpImm c rn rd r n => exact reaches_dp .cmp c true rn rd (.imm r n) s
  case cmnShiftImm c rn rd n k rm => exact reaches_dp .cmn c true rn rd (.shiftImm n k rm) s
  case cmnShiftReg c rn rd rs k rm => exact reaches_dp .cmn c true rn rd (.shiftReg rs k rm) s
  case cmnImm c rn rd r n => exact reaches_dp .cmn c true rn rd (.imm r n) s
  case orrShiftImm c sf rn rd n k rm => exact reaches_dp .orr c sf rn rd (.shiftImm n k rm) s
  case orrShiftReg c sf rn rd rs k rm => exact reaches_dp .orr c sf rn rd (.shiftReg rs k rm) s
  case orrImm c sf rn rd r n => exact reaches_dp .orr c sf rn rd (.imm r n) s
  case movShiftImm c sf rn rd n k rm => exact reaches_dp .mov c sf rn rd (.shiftImm n k rm) s
  case movShiftReg c sf rn rd rs k rm => exact reaches_dp .mov c sf rn rd (.shiftReg rs k rm) s
  case movImm c sf rn rd r n => exact reaches_dp .mov c sf rn rd (.imm r n) s
  case bicShiftImm c sf rn rd n k rm => exact reaches_dp .bic c sf rn rd (.shiftImm n k rm) s
  case bicShiftReg c sf rn rd rs k rm => exact reaches_dp .bic c sf rn rd (.shiftReg rs k rm) s
  case bicImm c sf rn rd r n => exact reaches_dp .bic c sf rn rd (.imm r n) s
  case mvnShiftImm c sf rn rd n k rm => exact reaches_dp .mvn c sf rn rd (.shiftImm n k rm) s
  case mvnShiftReg c sf rn rd rs k rm => exact reaches_dp .mvn c sf rn rd (.shiftReg rs k rm) s
  case mvnImm c sf rn rd r n => exact reaches_dp .mvn c sf rn rd (.imm r n) s
  case strhReg => exact reaches_storeHalf _ _ _ _
  case strhImm => exact reaches_storeHalf _ _ _ _
  case ldrhReg => exact reaches_loadHalfTransfer _ _ _ _
  case ldrhImm => exact reaches_loadHalfTransfer _ _ _ _
  case ldrsbReg => exact reaches_loadTransfer _ _ _ _
  case ldrsbImm => exact reaches_loadTransfer _ _ _ _
  case ldrshReg => exact reaches_loadHalfTransfer _ _ _ _
  case ldrshImm => exact reaches_loadHalfTransfer _ _ _ _
  case strImmPre => exact reaches_storeWord _ _ _ _
  case strImmPost => exact reaches_storeWord _ _ _ _
  case strtImm => exact reaches_storeWord _ _ _ _
  case strRegPre => exact reaches_storeWord _ _ _ _
  case strRegPost => exact reaches_storeWord _ _ _ _
  case strtReg => exact reaches_storeWord _ _ _ _
  case ldrImmPre => exact reaches_loadTransfer _ _ _ _
  case ldrImmPost => exact reaches_loadTransfer _ _ _ _
  case ldrtImm => exact reaches_loadTransfer _ _ _ _
  case ldrRegPre => exact reaches_loadTransfer _ _ _ _
  case ldrRegPost => exact reaches_loadTransfer _ _ _ _
  case ldrtReg => exact reaches_loadTransfer _ _ _ _
  case strbImmPre => exact reaches_storeByte _ _ _ _
  case strbImmPost => exact reaches_storeByte _ _ _ _
  case strbtImm => exact reaches_storeByte _ _ _ _
  case strbRegPre => exact reaches_storeByte _ _ _ _
  case strbRegPost => exact reaches_storeByte _ _ _ _
  case strbtReg => exact reaches_storeByte _ _ _ _
  case ldrbImmPre => exact reaches_loadTransfer _ _ _ _
  case ldrbImmPost => exact reaches_loadTransfer _ _ _ _
  case ldrbtImm => exact reaches_loadTransfer _ _ _ _
  case ldrbRegPre => exact reaches_loadTransfer _ _ _ _
  case ldrbRegPost => exact reaches_loadTransfer _ _ _ _
  case ldrbtReg => exact reaches_loadTransfer _ _ _ _
  case stc => exact reaches_unimplemented
  case ldc => exact reaches_unimplemented
  case cdp => exact reaches_unimplemented
  case mcr => exact reaches_unimplemented
  case mrc => exact reaches_unimplemented
  case undefMulSpace => exact reaches_unimplemented
  case undefSwapBit23 => exact reaches_unimplemented
  case undefSwapBit20 => exact reaches_unimplemented
  case undefSwapBit21 => exact reaches_unimplemented
  case undefHalfStore => exact reaches_unimplemented
  case undefTestBit7 => exact reaches_unimplemented
  case undefTestLsl01 => exact reaches_unimplemented
  case undefTestLo2 => exact reaches_unimplemented
  case undefTestBit6Reg => exact reaches_unimplemented
  case undefTestLo3 => exact reaches_unimplemented
  case undefMrsLo1 => exact reaches_unimplemented
  case undefMsrSpsrLo1 => exact reaches_unimplemented
  case undefTestImm => exact reaches_unimplemented
  case undefRegOffsetBit4 => exact reaches_unimplemented
  case tLslImm offset5 rs rd => exact reaches_thumbShiftImm .lsl offset5 rs rd (by rintro rfl hwf; simp [Instr.wf, Reg.isLow] at hwf)
  case tLsrImm offset5 rs rd => exact reaches_thumbShiftImm .lsr offset5 rs rd (by rintro rfl hwf; simp [Instr.wf, Reg.isLow] at hwf)
  case tAsrImm offset5 rs rd => exact reaches_thumbShiftImm .asr offset5 rs rd (by rintro rfl hwf; simp [Instr.wf, Reg.isLow] at hwf)
  case tAddReg rn rs rd => exact reaches_thumbOp .add rd (s.x rs) (s.x rn) (by rintro _ rfl hwf; simp [Instr.wf, Reg.isLow] at hwf)
  case tSubReg rn rs rd => exact reaches_thumbOp .sub rd (s.x rs) (s.x rn) (by rintro _ rfl hwf; simp [Instr.wf, Reg.isLow] at hwf)
  case tAddImm3 imm3 rs rd => exact reaches_thumbOp .add rd (s.x rs) (imm3.setWidth 32) (by rintro _ rfl hwf; simp [Instr.wf, Reg.isLow] at hwf)
  case tSubImm3 imm3 rs rd => exact reaches_thumbOp .sub rd (s.x rs) (imm3.setWidth 32) (by rintro _ rfl hwf; simp [Instr.wf, Reg.isLow] at hwf)
  case tMovImm8 rd imm8 => exact reaches_thumbOp .mov rd (s.x rd) (imm8.setWidth 32) (by rintro _ rfl hwf; simp [Instr.wf, Reg.isLow] at hwf)
  case tCmpImm8 rd imm8 => exact reaches_thumbOp .cmp rd (s.x rd) (imm8.setWidth 32) (fun h => absurd h (by decide))
  case tAddImm8 rd imm8 => exact reaches_thumbOp .add rd (s.x rd) (imm8.setWidth 32) (by rintro _ rfl hwf; simp [Instr.wf, Reg.isLow] at hwf)
  case tSubImm8 rd imm8 => exact reaches_thumbOp .sub rd (s.x rd) (imm8.setWidth 32) (by rintro _ rfl hwf; simp [Instr.wf, Reg.isLow] at hwf)
  case tAnd rs rd => exact reaches_thumbOp .and rd (s.x rd) (s.x rs) (by rintro _ rfl hwf; simp [Instr.wf, Reg.isLow] at hwf)
  case tEor rs rd => exact reaches_thumbOp .eor rd (s.x rd) (s.x rs) (by rintro _ rfl hwf; simp [Instr.wf, Reg.isLow] at hwf)
  case tLslReg rs rd => exact reaches_thumbShiftReg .lsl rs rd (by rintro rfl hwf; simp [Instr.wf, Reg.isLow] at hwf)
  case tLsrReg rs rd => exact reaches_thumbShiftReg .lsr rs rd (by rintro rfl hwf; simp [Instr.wf, Reg.isLow] at hwf)
  case tAsrReg rs rd => exact reaches_thumbShiftReg .asr rs rd (by rintro rfl hwf; simp [Instr.wf, Reg.isLow] at hwf)
  case tAdc rs rd => exact reaches_thumbOp .adc rd (s.x rd) (s.x rs) (by rintro _ rfl hwf; simp [Instr.wf, Reg.isLow] at hwf)
  case tSbc rs rd => exact reaches_thumbOp .sbc rd (s.x rd) (s.x rs) (by rintro _ rfl hwf; simp [Instr.wf, Reg.isLow] at hwf)
  case tRor rs rd => exact reaches_thumbShiftReg .ror rs rd (by rintro rfl hwf; simp [Instr.wf, Reg.isLow] at hwf)
  case tTst rs rd => exact reaches_thumbOp .tst rd (s.x rd) (s.x rs) (fun h => absurd h (by decide))
  case tNeg rs rd => exact reaches_thumbOp .rsb rd (s.x rs) 0#32 (by rintro _ rfl hwf; simp [Instr.wf, Reg.isLow] at hwf)
  case tCmpReg rs rd => exact reaches_thumbOp .cmp rd (s.x rd) (s.x rs) (fun h => absurd h (by decide))
  case tCmn rs rd => exact reaches_thumbOp .cmn rd (s.x rd) (s.x rs) (fun h => absurd h (by decide))
  case tOrr rs rd => exact reaches_thumbOp .orr rd (s.x rd) (s.x rs) (by rintro _ rfl hwf; simp [Instr.wf, Reg.isLow] at hwf)
  case tBic rs rd => exact reaches_thumbOp .bic rd (s.x rd) (s.x rs) (by rintro _ rfl hwf; simp [Instr.wf, Reg.isLow] at hwf)
  case tMvn rs rd => exact reaches_thumbOp .mvn rd (s.x rd) (s.x rs) (by rintro _ rfl hwf; simp [Instr.wf, Reg.isLow] at hwf)
  case tAddHi src dst => exact reaches_thumbMove dst (s.xop dst + s.xop src)
  case tCmpHi src dst => exact reaches_thumbOp .cmp dst (s.xop dst) (s.xop src) (fun h => absurd h (by decide))
  case tMovHi src dst => exact reaches_thumbMove dst (s.xop src)
  case tLdrPc => exact reaches_loadTransfer _ _ _ _
  case tStrReg => exact reaches_storeWord _ _ _ _
  case tStrhReg => exact reaches_storeHalf _ _ _ _
  case tStrbReg => exact reaches_storeByte _ _ _ _
  case tLdsbReg => exact reaches_loadTransfer _ _ _ _
  case tLdrReg => exact reaches_loadTransfer _ _ _ _
  case tLdrhReg => exact reaches_loadHalfTransfer _ _ _ _
  case tLdrbReg => exact reaches_loadTransfer _ _ _ _
  case tLdshReg => exact reaches_loadHalfTransfer _ _ _ _
  case tStrImm => exact reaches_storeWord _ _ _ _
  case tLdrImm => exact reaches_loadTransfer _ _ _ _
  case tStrbImm => exact reaches_storeByte _ _ _ _
  case tLdrbImm => exact reaches_loadTransfer _ _ _ _
  case tStrhImm => exact reaches_storeHalf _ _ _ _
  case tLdrhImm => exact reaches_loadHalfTransfer _ _ _ _
  case tStrSp => exact reaches_storeWord _ _ _ _
  case tLdrSp => exact reaches_loadTransfer _ _ _ _
  case tAddPc rd imm8 => exact reaches_thumbMove rd (s.thumbPcBase + (imm8.setWidth 32 <<< 2))
  case tAddSp rd imm8 => exact reaches_thumbMove rd (s.x 13#4 + (imm8.setWidth 32 <<< 2))
  case tIncSp imm7 => exact reaches_thumbMove 13#4 (s.x 13#4 + (imm7.setWidth 32 <<< 2))
  case tDecSp imm7 => exact reaches_thumbMove 13#4 (s.x 13#4 - (imm7.setWidth 32 <<< 2))
  case tBeq => exact reaches_thumbCondBranch _ _
  case tBne => exact reaches_thumbCondBranch _ _
  case tBcs => exact reaches_thumbCondBranch _ _
  case tBcc => exact reaches_thumbCondBranch _ _
  case tBmi => exact reaches_thumbCondBranch _ _
  case tBpl => exact reaches_thumbCondBranch _ _
  case tBvs => exact reaches_thumbCondBranch _ _
  case tBvc => exact reaches_thumbCondBranch _ _
  case tBhi => exact reaches_thumbCondBranch _ _
  case tBls => exact reaches_thumbCondBranch _ _
  case tBge => exact reaches_thumbCondBranch _ _
  case tBlt => exact reaches_thumbCondBranch _ _
  case tBgt => exact reaches_thumbCondBranch _ _
  case tBle => exact reaches_thumbCondBranch _ _
  case tUndefB1 => exact reaches_unimplemented
  case tUndefB2 => exact reaches_unimplemented
  case tUndefB6 => exact reaches_unimplemented
  case tUndefB8 => exact reaches_unimplemented
  case tUndefBe => exact reaches_unimplemented
  case tUndefDe => exact reaches_unimplemented
  case tUndefE8 => exact reaches_unimplemented

end Sys2Proof.Machine
end

