-- ==== Sys2Proof/Laws/Step.lean ====
section
/-! SUPPORT. What a step can do, and what every step keeps through an instruction, the interrupt check and the fetch (spec/40_cycle_and_condition.md R80 to R90). -/

namespace Sys2Proof.Machine

section Reach

variable {A B : Prop} {s : State}

/-- Every operation keeps the canonical form of memory. -/
theorem reach_mem_wf {r : Run} (h : Reach A B s r) (hw : s.mem.wf) : r.st.mem.wf := by
  induction h with
  | start => exact hw
  | flags h n z c v ih => simpa using ih
  | called h c ih => exact Environment.wf_answer ih c
  | setX h i v ih => simpa using ih
  | @setXusr r h i v ih => unfold Run.setXusr; split <;> simpa using ih
  | jump h v ih => simpa using ih
  | setSpsr h v ih => simpa [State.setSpsrCur] using ih
  | exchange h hA b v ih => simpa using ih
  | @restore r q h hA v he ih =>
    unfold Run.exceptionReturn State.restoreCpsr at he
    split at he
    · rename_i t ht
      cases he
      rcases State.resolveMode_ok ht with ⟨m, _, rfl⟩ | ⟨_, rfl⟩ <;> simpa using ih
    · cases he
  | entry h hA hB ra ih => simpa using ih
  | @msr r h mask v t he ih =>
    split at he
    · cases he; simpa using ih
    · rcases State.resolveMode_ok he with ⟨m, _, rfl⟩ | ⟨_, rfl⟩ <;> simpa using ih

/-- What two parts of an instruction keep, both keep. -/
theorem stagingKept_trans {a b c : State} (h : StagingKept a b) (h' : StagingKept b c) : StagingKept a c := by
  obtain ⟨b1, b2, b3, b4⟩ := h
  obtain ⟨d1, d2, d3, d4⟩ := h'
  exact ⟨d1.trans b1, d2.trans b2, d3.trans b3, d4.trans b4⟩

/-- What resolving the mode keeps. -/
theorem resolve_kept {s t : State} (h : s.resolveMode = .ok t) : StagingKept s t ∧ Calls s t [] := by
  rcases State.resolveMode_ok h with ⟨m, _, rfl⟩ | ⟨_, rfl⟩ <;> simp [StagingKept, Calls]

/-- No operation writes what is staged, `opcode`, `dead` or a parameter (R89), and memory and the inputs are what the calls made so
far left (R41). -/
theorem reach_kept {r : Run} (h : Reach A B s r) : StagingKept s r.st ∧ ∃ cs, Calls s r.st cs := by
  have key : ∀ {u t : State} {ds : List OutEvent}, StagingKept u t → Calls u t ds → (StagingKept s u ∧ ∃ cs, Calls s u cs) →
      StagingKept s t ∧ ∃ cs, Calls s t cs := by
    rintro u t ds h1 ⟨h2, h3⟩ ⟨h4, cs, h5, h6⟩
    exact ⟨stagingKept_trans h4 h1, cs ++ ds, by rw [h2, h5, List.append_assoc], by rw [h3, h6, Environment.replay_append]⟩
  induction h with
  | start => exact ⟨by simp [StagingKept], [], by simp [Calls]⟩
  | flags h n z c v ih => exact key (ds := []) (by simp [StagingKept, State.setFlags]) (by simp [Calls]) ih
  | called h c ih => exact key (ds := [c]) (by simp [StagingKept]) (by simp [Calls]) ih
  | setX h i v ih => exact key (ds := []) (by simp [StagingKept]) (by simp [Calls]) ih
  | @setXusr r h i v ih =>
    exact key (ds := []) (by unfold Run.setXusr; split <;> simp [StagingKept]) (by unfold Run.setXusr; split <;> simp [Calls]) ih
  | jump h v ih => exact key (ds := []) (by simp [StagingKept]) (by simp [Calls]) ih
  | setSpsr h v ih => exact key (ds := []) (by simp [StagingKept, State.setSpsrCur]) (by simp [Calls, State.setSpsrCur]) ih
  | exchange h hA b v ih => exact key (ds := []) (by simp [StagingKept]) (by simp [Calls]) ih
  | @restore r q h hA v he ih =>
    unfold Run.exceptionReturn State.restoreCpsr at he
    split at he
    · rename_i t ht
      cases he
      obtain ⟨h1, h2⟩ := resolve_kept ht
      exact key (u := t) (ds := []) (by simp [StagingKept]) (by simp [Calls])
        (key h1 h2 (key (t := r.st.setCpsr r.st.spsrCur) (ds := []) (by simp [StagingKept]) (by simp [Calls]) ih))
    · cases he
  | entry h hA hB ra ih => exact key (ds := []) (by simp [StagingKept]) (by simp [Calls]) ih
  | @msr r h mask v t he ih =>
    have hc := key (t := r.st.setCpsr (mergeBits r.st.cpsr v (r.st.msrCpsrMask mask))) (ds := []) (by simp [StagingKept]) (by simp [Calls]) ih
    split at he
    · cases he; exact hc
    · exact key (resolve_kept he).1 (resolve_kept he).2 hc

/-- Every instruction keeps what is staged, `opcode`, `dead` and the parameters, and leaves of memory, the inputs and the reactions to come
what its calls leave. -/
theorem exec_kept (i : Instr) (s t : State) (h : exec i s = .next t) : StagingKept s t ∧ ∃ cs, Calls s t cs := by
  obtain ⟨r, n, hr, rfl⟩ := exec_reach i s t h
  simpa [StagingKept, Calls] using reach_kept hr

/-- MSR to CPSR leaves T (R196). -/
theorem thumb_msr (s : State) (mask : BitVec 4) (v : Word) : Psr.t (mergeBits s.cpsr v (s.msrCpsrMask mask)) = Psr.t s.cpsr := by
  simp only [Psr.t, mergeBits, State.msrCpsrMask]
  rw [BitVec.getLsbD_or, BitVec.getLsbD_and, BitVec.getLsbD_and, BitVec.getLsbD_not, BitVec.getLsbD_and]
  have : (0xFFFFFFDF#32).getLsbD 5 = false := by decide
  rw [this]; simp

/-- A target aligned twice in one set. -/
theorem alignTarget_same_set {s t : State} (h : t.thumb = s.thumb) (v : Word) : t.alignTarget (s.alignTarget v) = s.alignTarget v := by
  rw [alignTarget_congr h]; simp

/-- Every operation keeps `pc` aligned by the set in force (R90). -/
theorem reach_aligned {r : Run} (h : Reach A B s r) (ha : s.pcAligned) : r.st.pcAligned ∧ (r.redirected = false → r.width = r.st.width) := by
  have key : ∀ (u t : State), t.thumb = u.thumb → t.pc = u.pc → u.pcAligned → t.pcAligned := by
    intro u t h1 h2 h3
    unfold State.pcAligned at h3 ⊢
    rw [alignTarget_congr h1, h2, h3]
  have wid : ∀ (u t : State), t.thumb = u.thumb → t.width = u.width := by
    intro u t h1; simp [State.width, h1]
  have jmp : ∀ (t : State) (v : Word), (t.writePc v).pcAligned := by
    intro t v; unfold State.pcAligned; rw [State.pc_writePc]; exact alignTarget_same_set rfl v
  induction h with
  | start => exact ⟨ha, fun _ => rfl⟩
  | @flags r h n z c v ih => exact ⟨key r.st _ (by simp [State.setFlags, State.thumb_eq]) rfl ih.1, fun e => (ih.2 e).trans (wid _ _ (by simp [State.setFlags, State.thumb_eq])).symm⟩
  | called h c ih => exact ⟨key _ _ rfl rfl ih.1, ih.2⟩
  | @setX r h i v ih =>
    by_cases h15 : i = 15#4
    · subst h15; exact ⟨jmp _ _, fun e => absurd e (by simp)⟩
    · refine ⟨key r.st _ (by simp) (by simp [h15]) ih.1, fun e => ?_⟩
      have : r.redirected = false := by simpa [h15] using e
      rw [Run.width_setX, ih.2 this]; exact (wid _ _ (by simp)).symm
  | @setXusr r h i v ih =>
    by_cases h15 : i = 15#4
    · subst h15; exact ⟨jmp _ _, fun e => absurd e (by simp [Run.setXusr])⟩
    · have : r.setXusr i v = r.map (·.setReg (phys .usr i) v) := by simp [Run.setXusr, h15]
      rw [this]
      exact ⟨key r.st _ rfl (State.pc_setReg _ _ (phys_ne_pc _ h15)) ih.1, fun e => (ih.2 e)⟩
  | jump h v ih => exact ⟨jmp _ _, fun e => absurd e (by simp)⟩
  | setSpsr h v ih =>
    refine ⟨key _ _ (by simp [State.setSpsrCur]) (by simp [State.setSpsrCur]) ih.1, fun e => (ih.2 e).trans (wid _ _ (by simp [State.setSpsrCur])).symm⟩
  | exchange h hA b v ih => exact ⟨jmp _ _, fun e => absurd e (by simp)⟩
  | @restore r q h hA v he ih =>
    unfold Run.exceptionReturn at he
    split at he
    · cases he; exact ⟨jmp _ _, fun e => absurd e (by simp)⟩
    · cases he
  | entry h hA hB ra ih => exact ⟨jmp _ _, fun e => absurd e (by simp)⟩
  | @msr r h mask v t he ih =>
    have : t.thumb = r.st.thumb ∧ t.pc = r.st.pc := by
      split at he
      · cases he; exact ⟨by rw [State.thumb_eq, State.cpsr_setCpsr, thumb_msr]; rfl, rfl⟩
      · rcases State.resolveMode_ok he with ⟨m, _, rfl⟩ | ⟨_, rfl⟩
        · exact ⟨by rw [State.thumb_eq, State.cpsr_setBankMode, State.cpsr_setCpsr, thumb_msr]; rfl, rfl⟩
        · exact ⟨by rw [State.thumb_eq, State.cpsr_setCpsr, thumb_msr]; rfl, rfl⟩
    exact ⟨key _ _ this.1 this.2 ih.1, fun e => (ih.2 e).trans (wid _ _ this.1).symm⟩

end Reach

/-- The alignment as a number (R16). -/
theorem pcAligned_iff (s : State) : s.pcAligned ↔ s.pc.toNat % (if s.thumb then 2 else 4) = 0 := by
  unfold State.pcAligned
  cases h : s.thumb
  · rw [alignTarget_arm h, aligned_four]; simp
  · rw [alignTarget_thumb h, aligned_two]; simp

/-- The advance of `pc` keeps it aligned. -/
theorem pcAligned_advance (s : State) (h : s.pcAligned) : (s.setPc (s.pc + s.width)).pcAligned := by
  rw [pcAligned_iff] at h ⊢
  have e : (s.setPc (s.pc + s.width)).thumb = s.thumb := rfl
  rw [e, State.pc_setPc]
  simp only [State.width]
  cases ht : s.thumb <;> simp only [ht] at h ⊢ <;> simp [BitVec.toNat_add] at h ⊢ <;> omega

/-- Every instruction keeps `pc` aligned. -/
theorem exec_pcAligned (i : Instr) (s t : State) (ha : s.pcAligned) (h : exec i s = .next t) : t.pcAligned := by
  obtain ⟨r, n, hr, rfl⟩ := exec_reach i s t h
  obtain ⟨h1, h2⟩ := reach_aligned hr ha
  unfold Run.result
  cases hd : r.redirected
  · rw [h2 hd]; exact pcAligned_advance _ h1
  · exact h1

/-- So does the interrupt check. -/
theorem interruptCheck_pcAligned (s : State) (h : s.pcAligned) : s.interruptCheck.pcAligned := by
  have jmp : ∀ (t : State) (v : Word), (t.writePc v).pcAligned := by
    intro t v; unfold State.pcAligned; rw [State.pc_writePc]; exact alignTarget_same_set rfl v
  unfold State.interruptCheck
  split
  · exact h
  · split
    · split
      · exact jmp _ _
      · exact h
    · exact h

/-- So does fetching. -/
theorem fetchDecode_pcAligned (s : State) (h : s.pcAligned) : s.fetchDecode.pcAligned := by
  unfold State.fetchDecode
  split
  · exact h
  · rename_i ht
    simp only []
    split
    · exact h
    · have := pcAligned_advance s h
      rw [width_arm (by simpa using ht)] at this
      exact this

/-- So does the end of a cycle. -/
theorem stageNext_pcAligned (s : State) (h : s.pcAligned) : s.stageNext.pcAligned := by
  unfold State.stageNext
  simp only []
  split
  · exact interruptCheck_pcAligned s h
  · exact fetchDecode_pcAligned _ (interruptCheck_pcAligned s h)

/-- Everything a step can do (R80). -/
theorem step_cases (s t : State) (h : step s = .next t) : (s.dead = true ∧ t = s.clearOuts) ∨ (s.dead = false ∧ 0 < s.delay ∧ t = s.clearOuts.setDelay (s.delay - 1)) ∨
   (s.dead = false ∧ s.delay = 0 ∧ s.pending = none ∧ t = s.clearOuts.stageNext) ∨ (∃ b i u, s.dead = false ∧ s.delay = 0 ∧ s.pending = some b ∧ b.instr s.opcode = some i ∧ exec i (s.clearOuts.setPending none) = .next u ∧ t = u.stageNext) := by
  have h : cycle s = .next t := h
  unfold cycle at h
  simp only [] at h
  by_cases hd : s.dead = true
  · left; rw [if_pos (by exact hd)] at h; cases h; exact ⟨hd, rfl⟩
  · rw [if_neg (by exact hd)] at h
    by_cases hl : 0 < s.delay
    · right; left; rw [if_pos (by exact hl)] at h; cases h; exact ⟨by simpa using hd, hl, rfl⟩
    · rw [if_neg (by exact hl)] at h
      cases hp : s.pending with
      | none =>
        right; right; left
        have : s.clearOuts.pending = none := hp
        rw [this] at h; cases h
        exact ⟨by simpa using hd, by omega, rfl, rfl⟩
      | some b =>
        right; right; right
        have : s.clearOuts.pending = some b := hp
        rw [this] at h
        simp only [dispatch] at h
        split at h
        · cases h
        · rename_i i hi
          split at h
          · rename_i u hu
            cases h
            exact ⟨b, i, u, by simpa using hd, by omega, rfl, hi, hu, rfl⟩
          · cases h
          · cases h

/-- What the interrupt check leaves of the environment: nothing, or what `wake` does (R310). -/
theorem interruptCheck_calls (s : State) : ∃ cs, Calls s s.interruptCheck cs ∧ ∀ c ∈ cs, c = .wake := by
  unfold State.interruptCheck State.enterIrq
  split
  · exact ⟨[], by simp [Calls], by simp⟩
  · split
    · split <;> exact ⟨[.wake], by simp [Calls], by simp⟩
    · exact ⟨[], by simp [Calls], by simp⟩

/-- Fetching makes one call, a read. -/
theorem fetchDecode_calls (s : State) : Calls s s.fetchDecode [if s.thumb then s.fetchThumb.call else s.fetchArm.call] := by
  unfold State.fetchDecode
  split
  · simp [Calls]
  · simp only []; split <;> simp [Calls]

/-- Memory stays canonical over events of the core. -/
theorem Calls.wf {s t : State} {cs : List OutEvent} (h : Calls s t cs) (hw : s.mem.wf) : t.mem.wf := by
  rw [State.mem_eq, h.2]; exact Environment.wf_replay hw cs

/-- So it does over the end of a cycle. -/
theorem stageNext_wf (s : State) (h : s.mem.wf) : s.stageNext.mem.wf := by
  obtain ⟨cs, hc, _⟩ := interruptCheck_calls s
  unfold State.stageNext
  simp only []
  split
  · exact hc.wf h
  · exact (fetchDecode_calls _).wf (hc.wf h)

/-- The environment stays quiet over events of the core. -/
theorem Calls.quiet {s t : State} {cs : List OutEvent} (h : Calls s t cs) (hq : s.quiet) : t.quiet := by
  intro r hr
  rw [State.reactions_eq, h.2] at hr
  exact hq r (Environment.mem_reactions_replay _ _ r hr)

/-- The interrupt check stages nothing. -/
theorem pending_interruptCheck (s : State) : s.interruptCheck.pending = s.pending := by
  unfold State.interruptCheck State.enterIrq
  split
  · rfl
  · split
    · split <;> simp
    · rfl

/-- What a fetch stages agrees with the word it read (R23, R83). -/
theorem fetchDecode_agrees (s : State) (hp : s.pending = none) : s.fetchDecode.stagedAgrees := by
  unfold State.fetchDecode
  split
  · rename_i ht
    refine ⟨ht, rfl, ?_⟩
    show BitVec.setWidth 32 (BitVec.setWidth 16 (BitVec.setWidth 32 (s.mem.read16 (alignHalf s.pc)))) = BitVec.setWidth 32 (s.mem.read16 (alignHalf s.pc))
    congr 1
    simp
  · rename_i ht
    simp only []
    split
    · rename_i hc
      exact ⟨by simpa using ht, rfl, hc⟩
    · have : (((s.called s.fetchArm.call).setOpcode s.fetchArm.value).setPc (s.pc + 4#32)).pending = none := hp
      simp only [State.stagedAgrees, this]

/-- It is the word at `pc`, unless the environment wrote there inside the fetch (R53). -/
theorem fetchDecode_fresh (s : State) (hp : s.pending = none) (hq : s.quiet) : s.fetchDecode.stagedFresh := by
  have hm : ∀ z a v, (s.called (.read z a v)).mem = s.mem := fun z a v => Environment.mem_react (e := s.environment) hq
  unfold State.fetchDecode
  split
  · show s.fetchThumb.value = BitVec.setWidth 32 ((s.called (.read _ _ _)).mem.read16 (alignHalf s.pc))
    rw [hm]; rfl
  · simp only []
    split
    · show s.fetchArm.value = (s.called (.read _ _ _)).mem.read32 (alignWord s.pc)
      rw [hm]; rfl
    · have : (((s.called s.fetchArm.call).setOpcode s.fetchArm.value).setPc (s.pc + 4#32)).pending = none := hp
      simp only [State.stagedFresh, this]

/-- What the end of a cycle stages agrees with `opcode`, and, the environment quiet, with the word at `pc` (R23, R53, R83). -/
theorem stageNext_staged (s : State) (hp : s.pending = none) :
    s.stageNext.stagedAgrees ∧ (s.quiet → s.stageNext.stagedFresh ∧ s.stageNext.quiet) := by
  obtain ⟨cs, hc, _⟩ := interruptCheck_calls s
  have hpi : s.interruptCheck.pending = none := (pending_interruptCheck s).trans hp
  unfold State.stageNext
  simp only []
  split
  · refine ⟨?_, fun hq => ⟨?_, hc.quiet hq⟩⟩
    · simp only [State.stagedAgrees, hpi]
    · simp only [State.stagedFresh, hpi]
  · exact ⟨fetchDecode_agrees _ hpi, fun hq => ⟨fetchDecode_fresh _ hpi (hc.quiet hq), (fetchDecode_calls _).quiet (hc.quiet hq)⟩⟩

/-- A step with an instruction staged runs it (R80 step C3). -/
theorem step_pending (s : State) (b : Bucket) (i : Instr) (hd : s.dead = false) (hl : s.delay = 0) (hp : s.pending = some b) (hi : b.instr s.opcode = some i) :
   step s = match exec i { s with outs := [], pending := none } with
        | .next t => .next t.stageNext
        | .fault f => .fault f
        | .refused r => .refused r := by
  show cycle s = _
  have e1 : s.clearOuts.dead = false := hd
  have e2 : ¬ 0 < s.clearOuts.delay := by rw [show s.clearOuts.delay = s.delay from rfl, hl]; decide
  have e3 : s.clearOuts.pending = some b := hp
  unfold cycle
  simp only [e1, e2, e3, Bool.false_eq_true, if_false]
  unfold dispatch
  have e4 : b.instr s.clearOuts.opcode = some i := hi
  rw [e4]; rfl

/-- Decoding Thumb bytes is decoding their halfword. -/
theorem decodeThumb_of_decode {rest : List Byte} {i : Instr} {b0 b1 b2 b3 : Byte} (h : decode true [b0, b1, b2, b3] = .ok (i, rest)) : decodeThumb (halfOfBytes b0 b1) = some i := by
  simp only [decode] at h
  split at h
  · rename_i j hj; cases h; exact hj
  · cases h

/-- Decoding ARM bytes is decoding their word. -/
theorem decodeArm_of_decode {rest : List Byte} {i : Instr} {b0 b1 b2 b3 : Byte} (h : decode false [b0, b1, b2, b3] = .ok (i, rest)) : decodeArm (wordOfBytes b0 b1 b2 b3) = some i := by
  simp only [decode] at h
  split at h
  · rename_i j hj; cases h; exact hj
  · cases h

/-- The instruction staged is the one the bytes at `pc` decode to. -/
theorem staged_instr (s : State) (b : Bucket) (i : Instr) (rest : List Byte) (hp : s.pending = some b) (h1 : s.stagedAgrees) (h2 : s.stagedFresh)
   (hdec : let a := if s.thumb then alignHalf s.pc else alignWord s.pc
    decode s.thumb [s.mem.read8 a, s.mem.read8 (a + 1#32), s.mem.read8 (a + 2#32), s.mem.read8 (a + 3#32)] = .ok (i, rest)) : b.instr s.opcode = some i := by
  unfold State.stagedAgrees at h1
  unfold State.stagedFresh at h2
  rw [hp] at h1 h2
  simp only [] at hdec
  cases b with
  | arm idx =>
    obtain ⟨ht, hidx, _⟩ := h1
    rw [ht] at hdec
    have := decodeArm_of_decode hdec
    simp only [] at h2
    have hw : s.opcode = s.mem.read32 (alignWord s.pc) := h2
    unfold Bucket.instr
    rw [← hidx, hw]
    exact this
  | thumb idx =>
    obtain ⟨ht, hidx, _⟩ := h1
    rw [ht] at hdec
    have := decodeThumb_of_decode hdec
    simp only [] at h2
    have hw : s.opcode = (s.mem.read16 (alignHalf s.pc)).setWidth 32 := h2
    have hw' : s.opcode.setWidth 16 = s.mem.read16 (alignHalf s.pc) := by rw [hw]; simp
    unfold Bucket.instr
    rw [← hidx, hw']
    exact this

end Sys2Proof.Machine
end

