-- ==== Sys2Proof/Tests/Slice0.lean ====
section
/-! SUPPORT. The tests: well-formedness refuses ill-formed terms; every constructor's decoding, on words written out from the
formats of spec/30_encoding.md; one-step vectors of spec/96_test_vectors_families.md; and, for every obligation with
hypotheses, a concrete instance that meets them. Expected values are the spec's or worked out by hand from its rules. -/

namespace Sys2Proof.Tests

open Sys2Proof Sys2Proof.Machine

set_option Elab.async false

/-! ## Helpers -/

/-- A state with the given status word (its mode's bank in force), `pc`, registers and words of memory. -/
def machine (cpsr pc : Word) (regs : List (PReg × Word)) (mem : List (Word × Word)) : State :=
  let s : State := { State.reset with cpsr := cpsr, bankMode := (Mode.ofBits (Psr.mode cpsr)).getD .usr }
  let t := regs.foldl (fun s (p : PReg × Word) => s.setReg p.1 p.2) (s.setPc pc)
  mem.foldl (fun s (c : Word × Word) => s.setMem (s.mem.write32 c.1 c.2)) t

/-- The outcome is a next state that passes the check. -/
def endsIn (o : Outcome) (check : State → Bool) : Bool :=
  match o with
  | .next t => check t
  | .fault _ => false
  | .refused _ => false

/-- The outcome is that fault. -/
def faultsWith (o : Outcome) (f : Fault) : Bool :=
  match o with
  | .next _ => false
  | .fault g => g == f
  | .refused _ => false

/-- The outcome is that refusal. -/
def refusesWith (o : Outcome) (r : Refusal) : Bool :=
  match o with
  | .next _ => false
  | .fault _ => false
  | .refused q => q == r

/-- The instruction a word decodes to, executed. -/
def run (w : Nat) (s : State) : Outcome :=
  match decodeTableWord (if s.thumb then 16 else 32) w with
  | some i => exec i s
  | none => .refused .noDecodeRow


/-! ## Well-formedness: an ill-formed term for each register check, which the check refuses -/

theorem test_wf_refuses_t1 :
    Instr.wf (.tLslImm 0#5 8#4 7#4) = false ∧
    Instr.wf (.tLslImm 0#5 7#4 8#4) = false ∧
    Instr.wf (.tLsrImm 0#5 8#4 7#4) = false ∧
    Instr.wf (.tLsrImm 0#5 7#4 8#4) = false ∧
    Instr.wf (.tAsrImm 0#5 8#4 7#4) = false ∧
    Instr.wf (.tAsrImm 0#5 7#4 8#4) = false := by decide

theorem test_wf_refuses_t2r :
    Instr.wf (.tAddReg 8#4 7#4 7#4) = false ∧
    Instr.wf (.tAddReg 7#4 8#4 7#4) = false ∧
    Instr.wf (.tAddReg 7#4 7#4 8#4) = false ∧
    Instr.wf (.tSubReg 8#4 7#4 7#4) = false ∧
    Instr.wf (.tSubReg 7#4 8#4 7#4) = false ∧
    Instr.wf (.tSubReg 7#4 7#4 8#4) = false := by decide

theorem test_wf_refuses_t2i :
    Instr.wf (.tAddImm3 0#3 8#4 7#4) = false ∧
    Instr.wf (.tAddImm3 0#3 7#4 8#4) = false ∧
    Instr.wf (.tSubImm3 0#3 8#4 7#4) = false ∧
    Instr.wf (.tSubImm3 0#3 7#4 8#4) = false := by decide

theorem test_wf_refuses_t3 :
    Instr.wf (.tMovImm8 8#4 0#8) = false ∧
    Instr.wf (.tCmpImm8 8#4 0#8) = false ∧
    Instr.wf (.tAddImm8 8#4 0#8) = false ∧
    Instr.wf (.tSubImm8 8#4 0#8) = false := by decide

theorem test_wf_refuses_t4 :
    Instr.wf (.tAnd 8#4 7#4) = false ∧
    Instr.wf (.tAnd 7#4 8#4) = false ∧
    Instr.wf (.tEor 8#4 7#4) = false ∧
    Instr.wf (.tEor 7#4 8#4) = false ∧
    Instr.wf (.tLslReg 8#4 7#4) = false ∧
    Instr.wf (.tLslReg 7#4 8#4) = false ∧
    Instr.wf (.tLsrReg 8#4 7#4) = false ∧
    Instr.wf (.tLsrReg 7#4 8#4) = false ∧
    Instr.wf (.tAsrReg 8#4 7#4) = false ∧
    Instr.wf (.tAsrReg 7#4 8#4) = false ∧
    Instr.wf (.tAdc 8#4 7#4) = false ∧
    Instr.wf (.tAdc 7#4 8#4) = false ∧
    Instr.wf (.tSbc 8#4 7#4) = false ∧
    Instr.wf (.tSbc 7#4 8#4) = false ∧
    Instr.wf (.tRor 8#4 7#4) = false ∧
    Instr.wf (.tRor 7#4 8#4) = false ∧
    Instr.wf (.tTst 8#4 7#4) = false ∧
    Instr.wf (.tTst 7#4 8#4) = false ∧
    Instr.wf (.tNeg 8#4 7#4) = false ∧
    Instr.wf (.tNeg 7#4 8#4) = false ∧
    Instr.wf (.tCmpReg 8#4 7#4) = false ∧
    Instr.wf (.tCmpReg 7#4 8#4) = false ∧
    Instr.wf (.tCmn 8#4 7#4) = false ∧
    Instr.wf (.tCmn 7#4 8#4) = false ∧
    Instr.wf (.tOrr 8#4 7#4) = false ∧
    Instr.wf (.tOrr 7#4 8#4) = false ∧
    Instr.wf (.tMul 8#4 7#4) = false ∧
    Instr.wf (.tMul 7#4 8#4) = false ∧
    Instr.wf (.tBic 8#4 7#4) = false ∧
    Instr.wf (.tBic 7#4 8#4) = false ∧
    Instr.wf (.tMvn 8#4 7#4) = false ∧
    Instr.wf (.tMvn 7#4 8#4) = false := by decide

theorem test_wf_refuses_t6 :
    Instr.wf (.tLdrPc 8#4 0#8) = false := by decide

theorem test_wf_refuses_t7 :
    Instr.wf (.tStrReg 8#4 7#4 7#4) = false ∧
    Instr.wf (.tStrReg 7#4 8#4 7#4) = false ∧
    Instr.wf (.tStrReg 7#4 7#4 8#4) = false ∧
    Instr.wf (.tStrbReg 8#4 7#4 7#4) = false ∧
    Instr.wf (.tStrbReg 7#4 8#4 7#4) = false ∧
    Instr.wf (.tStrbReg 7#4 7#4 8#4) = false ∧
    Instr.wf (.tLdrReg 8#4 7#4 7#4) = false ∧
    Instr.wf (.tLdrReg 7#4 8#4 7#4) = false ∧
    Instr.wf (.tLdrReg 7#4 7#4 8#4) = false ∧
    Instr.wf (.tLdrbReg 8#4 7#4 7#4) = false ∧
    Instr.wf (.tLdrbReg 7#4 8#4 7#4) = false ∧
    Instr.wf (.tLdrbReg 7#4 7#4 8#4) = false := by decide

theorem test_wf_refuses_t8 :
    Instr.wf (.tStrhReg 8#4 7#4 7#4) = false ∧
    Instr.wf (.tStrhReg 7#4 8#4 7#4) = false ∧
    Instr.wf (.tStrhReg 7#4 7#4 8#4) = false ∧
    Instr.wf (.tLdsbReg 8#4 7#4 7#4) = false ∧
    Instr.wf (.tLdsbReg 7#4 8#4 7#4) = false ∧
    Instr.wf (.tLdsbReg 7#4 7#4 8#4) = false ∧
    Instr.wf (.tLdrhReg 8#4 7#4 7#4) = false ∧
    Instr.wf (.tLdrhReg 7#4 8#4 7#4) = false ∧
    Instr.wf (.tLdrhReg 7#4 7#4 8#4) = false ∧
    Instr.wf (.tLdshReg 8#4 7#4 7#4) = false ∧
    Instr.wf (.tLdshReg 7#4 8#4 7#4) = false ∧
    Instr.wf (.tLdshReg 7#4 7#4 8#4) = false := by decide

theorem test_wf_refuses_t9 :
    Instr.wf (.tStrImm 0#5 8#4 7#4) = false ∧
    Instr.wf (.tStrImm 0#5 7#4 8#4) = false ∧
    Instr.wf (.tLdrImm 0#5 8#4 7#4) = false ∧
    Instr.wf (.tLdrImm 0#5 7#4 8#4) = false ∧
    Instr.wf (.tStrbImm 0#5 8#4 7#4) = false ∧
    Instr.wf (.tStrbImm 0#5 7#4 8#4) = false ∧
    Instr.wf (.tLdrbImm 0#5 8#4 7#4) = false ∧
    Instr.wf (.tLdrbImm 0#5 7#4 8#4) = false := by decide

theorem test_wf_refuses_t10 :
    Instr.wf (.tStrhImm 0#5 8#4 7#4) = false ∧
    Instr.wf (.tStrhImm 0#5 7#4 8#4) = false ∧
    Instr.wf (.tLdrhImm 0#5 8#4 7#4) = false ∧
    Instr.wf (.tLdrhImm 0#5 7#4 8#4) = false := by decide

theorem test_wf_refuses_t11 :
    Instr.wf (.tStrSp 8#4 0#8) = false ∧
    Instr.wf (.tLdrSp 8#4 0#8) = false := by decide

theorem test_wf_refuses_t12 :
    Instr.wf (.tAddPc 8#4 0#8) = false ∧
    Instr.wf (.tAddSp 8#4 0#8) = false := by decide

theorem test_wf_refuses_t15 :
    Instr.wf (.tStmia 8#4 0#8) = false ∧
    Instr.wf (.tLdmia 8#4 0#8) = false := by decide

/-- The register 7 passes every check that the register 8 fails. -/
theorem test_wf_accepts_low : Instr.wf (.tAddReg 7#4 7#4 7#4) = true ∧ Instr.wf (.tLslImm 31#5 7#4 7#4) = true ∧
    Instr.wf (.tLdmia 7#4 0xFF#8) = true ∧ Instr.wf (.tMovHi 15#4 15#4) = true := by decide

/-! ## Decoding: a word for every constructor, written out field by field from the formats of R63 and R67 (the UNDEFINED ones
from the lines of R64 and R68) -/

theorem test_decode_a1_1 :
    decodeArm 0b0011_000_0000_0_0101_0010_01100_10_0_0101#32 = some (.andShiftImm .cc false 0x5#4 0x2#4 0xC#5 .asr 0x5#4) ∧
    decodeArm 0b1000_000_0001_0_1101_1000_00011_01_0_1001#32 = some (.eorShiftImm .hi false 0xD#4 0x8#4 0x3#5 .lsr 0x9#4) ∧
    decodeArm 0b1101_000_0010_0_1110_1000_00110_10_0_0001#32 = some (.subShiftImm .le false 0xE#4 0x8#4 0x6#5 .asr 0x1#4) ∧
    decodeArm 0b0010_000_0011_0_0110_0001_00111_10_0_1000#32 = some (.rsbShiftImm .cs false 0x6#4 0x1#4 0x7#5 .asr 0x8#4) ∧
    decodeArm 0b0111_000_0100_0_0101_1101_10010_10_0_0101#32 = some (.addShiftImm .vc false 0x5#4 0xD#4 0x12#5 .asr 0x5#4) ∧
    decodeArm 0b1100_000_0101_0_1010_1010_10010_10_0_0101#32 = some (.adcShiftImm .gt false 0xA#4 0xA#4 0x12#5 .asr 0x5#4) ∧
    decodeArm 0b0001_000_0110_1_1001_0110_00001_10_0_0011#32 = some (.sbcShiftImm .ne true 0x9#4 0x6#4 0x1#5 .asr 0x3#4) ∧
    decodeArm 0b0110_000_0111_0_1000_1101_00100_01_0_0110#32 = some (.rscShiftImm .vs false 0x8#4 0xD#4 0x4#5 .lsr 0x6#4) := by decide +kernel

theorem test_decode_a1_2 :
    decodeArm 0b0101_000_1100_0_1000_0001_10010_01_0_1000#32 = some (.orrShiftImm .pl false 0x8#4 0x1#4 0x12#5 .lsr 0x8#4) ∧
    decodeArm 0b0100_000_1101_1_1010_0010_00011_10_0_1001#32 = some (.movShiftImm .mi true 0xA#4 0x2#4 0x3#5 .asr 0x9#4) ∧
    decodeArm 0b1001_000_1110_1_0011_0101_00011_10_0_1011#32 = some (.bicShiftImm .ls true 0x3#4 0x5#4 0x3#5 .asr 0xB#4) ∧
    decodeArm 0b1110_000_1111_0_1001_0101_10011_10_0_0111#32 = some (.mvnShiftImm .al false 0x9#4 0x5#4 0x13#5 .asr 0x7#4) := by decide +kernel

theorem test_decode_a2_1 :
    decodeArm 0b1010_000_0000_1_1000_0110_1100_0_01_1_0111#32 = some (.andShiftReg .ge true 0x8#4 0x6#4 0xC#4 .lsr 0x7#4) ∧
    decodeArm 0b0101_000_0001_1_1110_0111_0101_0_01_1_0011#32 = some (.eorShiftReg .pl true 0xE#4 0x7#4 0x5#4 .lsr 0x3#4) ∧
    decodeArm 0b0100_000_0010_1_0010_1011_1100_0_10_1_0001#32 = some (.subShiftReg .mi true 0x2#4 0xB#4 0xC#4 .asr 0x1#4) ∧
    decodeArm 0b1001_000_0011_1_0100_1000_0111_0_10_1_0101#32 = some (.rsbShiftReg .ls true 0x4#4 0x8#4 0x7#4 .asr 0x5#4) ∧
    decodeArm 0b1110_000_0100_1_0111_0100_1001_0_10_1_0001#32 = some (.addShiftReg .al true 0x7#4 0x4#4 0x9#4 .asr 0x1#4) ∧
    decodeArm 0b0011_000_0101_0_1000_0110_0010_0_10_1_0101#32 = some (.adcShiftReg .cc false 0x8#4 0x6#4 0x2#4 .asr 0x5#4) ∧
    decodeArm 0b1000_000_0110_0_1110_0111_0110_0_10_1_0101#32 = some (.sbcShiftReg .hi false 0xE#4 0x7#4 0x6#4 .asr 0x5#4) ∧
    decodeArm 0b1101_000_0111_1_0001_1100_1000_0_10_1_1100#32 = some (.rscShiftReg .le true 0x1#4 0xC#4 0x8#4 .asr 0xC#4) := by decide +kernel

theorem test_decode_a2_2 :
    decodeArm 0b0110_000_1100_1_1101_0101_0101_0_10_1_0101#32 = some (.orrShiftReg .vs true 0xD#4 0x5#4 0x5#4 .asr 0x5#4) ∧
    decodeArm 0b1011_000_1101_1_0111_1001_1100_0_01_1_0001#32 = some (.movShiftReg .lt true 0x7#4 0x9#4 0xC#4 .lsr 0x1#4) ∧
    decodeArm 0b0101_000_1110_1_0001_0101_0100_0_01_1_1011#32 = some (.bicShiftReg .pl true 0x1#4 0x5#4 0x4#4 .lsr 0xB#4) ∧
    decodeArm 0b0101_000_1111_1_0001_0101_1011_0_10_1_0100#32 = some (.mvnShiftReg .pl true 0x1#4 0x5#4 0xB#4 .asr 0x4#4) := by decide +kernel

theorem test_decode_a3_1 :
    decodeArm 0b0001_001_0000_1_1001_0101_1010_11010010#32 = some (.andImm .ne true 0x9#4 0x5#4 0xA#4 0xD2#8) ∧
    decodeArm 0b0110_001_0001_0_0100_1011_0110_11100011#32 = some (.eorImm .vs false 0x4#4 0xB#4 0x6#4 0xE3#8) ∧
    decodeArm 0b1011_001_0010_1_0101_0101_0101_01110110#32 = some (.subImm .lt true 0x5#4 0x5#4 0x5#4 0x76#8) ∧
    decodeArm 0b0101_001_0011_0_0010_1001_0001_01111110#32 = some (.rsbImm .pl false 0x2#4 0x9#4 0x1#4 0x7E#8) ∧
    decodeArm 0b0101_001_0100_0_0011_1100_0100_00100001#32 = some (.addImm .pl false 0x3#4 0xC#4 0x4#4 0x21#8) ∧
    decodeArm 0b1010_001_0101_1_0011_0110_0110_11101010#32 = some (.adcImm .ge true 0x3#4 0x6#4 0x6#4 0xEA#8) ∧
    decodeArm 0b0101_001_0110_1_0111_0001_0010_01110010#32 = some (.sbcImm .pl true 0x7#4 0x1#4 0x2#4 0x72#8) ∧
    decodeArm 0b0100_001_0111_0_1000_0100_1110_00100011#32 = some (.rscImm .mi false 0x8#4 0x4#4 0xE#4 0x23#8) := by decide +kernel

theorem test_decode_a3_2 :
    decodeArm 0b1101_001_1100_1_0110_1101_1000_01000111#32 = some (.orrImm .le true 0x6#4 0xD#4 0x8#4 0x47#8) ∧
    decodeArm 0b0010_001_1101_1_0110_0101_0101_10101110#32 = some (.movImm .cs true 0x6#4 0x5#4 0x5#4 0xAE#8) ∧
    decodeArm 0b0111_001_1110_1_0110_0101_0011_00100110#32 = some (.bicImm .vc true 0x6#4 0x5#4 0x3#4 0x26#8) ∧
    decodeArm 0b1100_001_1111_0_0010_0010_0011_10101000#32 = some (.mvnImm .gt false 0x2#4 0x2#4 0x3#4 0xA8#8) := by decide +kernel

theorem test_decode_a1t :
    decodeArm 0b1011_000_1000_1_0011_0101_01111_10_0_1001#32 = some (.tstShiftImm .lt 0x3#4 0x5#4 0xF#5 .asr 0x9#4) ∧
    decodeArm 0b0101_000_1001_1_0010_0100_01001_10_0_0010#32 = some (.teqShiftImm .pl 0x2#4 0x4#4 0x9#5 .asr 0x2#4) ∧
    decodeArm 0b0101_000_1010_1_0110_1000_01011_10_0_1001#32 = some (.cmpShiftImm .pl 0x6#4 0x8#4 0xB#5 .asr 0x9#4) ∧
    decodeArm 0b1010_000_1011_1_0101_0101_00100_10_0_1101#32 = some (.cmnShiftImm .ge 0x5#4 0x5#4 0x4#5 .asr 0xD#4) := by decide +kernel

theorem test_decode_a2t :
    decodeArm 0b0010_000_1000_1_1000_0101_1001_0_10_1_1010#32 = some (.tstShiftReg .cs 0x8#4 0x5#4 0x9#4 .asr 0xA#4) ∧
    decodeArm 0b0111_000_1001_1_1011_0101_0111_0_10_1_1101#32 = some (.teqShiftReg .vc 0xB#4 0x5#4 0x7#4 .asr 0xD#4) ∧
    decodeArm 0b1100_000_1010_1_1100_0101_1101_0_10_1_1100#32 = some (.cmpShiftReg .gt 0xC#4 0x5#4 0xD#4 .asr 0xC#4) ∧
    decodeArm 0b0001_000_1011_1_1000_0110_0110_0_01_1_0110#32 = some (.cmnShiftReg .ne 0x8#4 0x6#4 0x6#4 .lsr 0x6#4) := by decide +kernel

theorem test_decode_a3t :
    decodeArm 0b1001_001_1000_1_0001_0111_1010_01100110#32 = some (.tstImm .ls 0x1#4 0x7#4 0xA#4 0x66#8) ∧
    decodeArm 0b1110_001_1001_1_0101_0011_0001_11111100#32 = some (.teqImm .al 0x5#4 0x3#4 0x1#4 0xFC#8) ∧
    decodeArm 0b0011_001_1010_1_0011_0111_0010_00011100#32 = some (.cmpImm .cc 0x3#4 0x7#4 0x2#4 0x1C#8) ∧
    decodeArm 0b1000_001_1011_1_0101_1001_0101_00011010#32 = some (.cmnImm .hi 0x5#4 0x9#4 0x5#4 0x1A#8) := by decide +kernel

theorem test_decode_a8 :
    decodeArm 0b0011_000000_0_0_1001_0010_1000_1001_0001#32 = some (.mul .cc false 0x9#4 0x2#4 0x8#4 0x1#4) ∧
    decodeArm 0b1010_000000_1_1_0101_1001_0101_1001_0001#32 = some (.mla .ge true 0x5#4 0x9#4 0x5#4 0x1#4) := by decide +kernel

theorem test_decode_a9 :
    decodeArm 0b0001_00001_0_0_1_0011_1001_0110_1001_0010#32 = some (.umull .ne true 0x3#4 0x9#4 0x6#4 0x2#4) ∧
    decodeArm 0b1000_00001_0_1_1_0100_0101_0101_1001_1001#32 = some (.umlal .hi true 0x4#4 0x5#4 0x5#4 0x9#4) ∧
    decodeArm 0b0101_00001_1_0_0_0111_0001_0001_1001_1101#32 = some (.smull .pl false 0x7#4 0x1#4 0x1#4 0xD#4) ∧
    decodeArm 0b0110_00001_1_1_0_0101_0101_0111_1001_0111#32 = some (.smlal .vs false 0x5#4 0x5#4 0x7#4 0x7#4) := by decide +kernel

theorem test_decode_a10 :
    decodeArm 0b1101_00010_0_00_0111_0100_0000_1001_0001#32 = some (.swp .le 0x7#4 0x4#4 0x1#4) ∧
    decodeArm 0b0100_00010_1_00_0010_0001_0000_1001_1011#32 = some (.swpb .mi 0x2#4 0x1#4 0xB#4) := by decide +kernel

theorem test_decode_a11 :
    decodeArm 0b1011_000_0_1_0_0_0_0111_1101_0000_1_01_1_1011#32 = some (.strhReg .lt false true false 0x7#4 0xD#4 0xB#4) ∧
    decodeArm 0b1001_000_0_1_0_0_1_0011_0101_0000_1_01_1_0101#32 = some (.ldrhReg .ls false true false 0x3#4 0x5#4 0x5#4) ∧
    decodeArm 0b0111_000_1_0_0_0_1_1011_1000_0000_1_10_1_1110#32 = some (.ldrsbReg .vc true false false 0xB#4 0x8#4 0xE#4) ∧
    decodeArm 0b0101_000_0_1_0_1_1_0100_0101_0000_1_11_1_1010#32 = some (.ldrshReg .pl false true true 0x4#4 0x5#4 0xA#4) := by decide +kernel

theorem test_decode_a12 :
    decodeArm 0b0010_000_1_0_1_1_0_1101_0100_1000_1_01_1_0101#32 = some (.strhImm .cs true false true 0xD#4 0x4#4 0x8#4 0x5#4) ∧
    decodeArm 0b0101_000_1_0_1_0_1_1100_0011_1000_1_01_1_1000#32 = some (.ldrhImm .pl true false false 0xC#4 0x3#4 0x8#4 0x8#4) ∧
    decodeArm 0b1110_000_1_1_1_0_1_1010_0011_1001_1_10_1_1100#32 = some (.ldrsbImm .al true true false 0xA#4 0x3#4 0x9#4 0xC#4) ∧
    decodeArm 0b1100_000_1_1_1_1_1_1101_0011_1100_1_11_1_0011#32 = some (.ldrshImm .gt true true true 0xD#4 0x3#4 0xC#4 0x3#4) := by decide +kernel

theorem test_decode_a4 :
    decodeArm 0b0011_00010_1_00_1111_0110_000000000000#32 = some (.mrs .cc true 0x6#4) := by decide +kernel

theorem test_decode_a5 :
    decodeArm 0b1010_00010_0_10_1011_1111_00000000_1100#32 = some (.msrCpsrReg .ge 0xB#4 0xC#4) ∧
    decodeArm 0b0001_00010_1_10_0011_1111_00000000_0011#32 = some (.msrSpsrReg .ne 0x3#4 0x3#4) := by decide +kernel

theorem test_decode_a6 :
    decodeArm 0b1000_00110_0_10_1000_1111_0111_01011011#32 = some (.msrCpsrImm .hi 0x8#4 0x7#4 0x5B#8) ∧
    decodeArm 0b0101_00110_1_10_1011_1111_0101_11111101#32 = some (.msrSpsrImm .pl 0xB#4 0x5#4 0xFD#8) := by decide +kernel

theorem test_decode_a7 :
    decodeArm 0b0110_00010010_1111_1111_1111_0001_0101#32 = some (.bx .vs 0x5#4) := by decide +kernel

theorem test_decode_a13pre :
    decodeArm 0b1101_010_1_1_0_0_0_0111_0100_001100011001#32 = some (.strImmPre .le true false 0x7#4 0x4#4 0x319#12) ∧
    decodeArm 0b0111_010_1_1_0_1_1_0101_0101_011100100111#32 = some (.ldrImmPre .vc true true 0x5#4 0x5#4 0x727#12) ∧
    decodeArm 0b0001_010_1_1_1_1_0_1011_0101_010110010111#32 = some (.strbImmPre .ne true true 0xB#4 0x5#4 0x597#12) ∧
    decodeArm 0b1011_010_1_1_1_1_1_0101_0001_001110000111#32 = some (.ldrbImmPre .lt true true 0x5#4 0x1#4 0x387#12) := by decide +kernel

theorem test_decode_a13post :
    decodeArm 0b0100_010_0_0_0_0_0_0011_0111_001100100101#32 = some (.strImmPost .mi false 0x3#4 0x7#4 0x325#12) ∧
    decodeArm 0b1011_010_0_0_0_1_0_0011_0111_100111111100#32 = some (.strtImm .lt false 0x3#4 0x7#4 0x9FC#12) ∧
    decodeArm 0b1110_010_0_1_0_0_1_1110_1001_110101110010#32 = some (.ldrImmPost .al true 0xE#4 0x9#4 0xD72#12) ∧
    decodeArm 0b0101_010_0_0_0_1_1_0111_1110_101001110010#32 = some (.ldrtImm .pl false 0x7#4 0xE#4 0xA72#12) ∧
    decodeArm 0b1000_010_0_0_1_0_0_1100_1010_000101011011#32 = some (.strbImmPost .hi false 0xC#4 0xA#4 0x15B#12) ∧
    decodeArm 0b0101_010_0_1_1_1_0_1010_0001_111010001110#32 = some (.strbtImm .pl true 0xA#4 0x1#4 0xE8E#12) ∧
    decodeArm 0b0010_010_0_0_1_0_1_1100_1011_110000000000#32 = some (.ldrbImmPost .cs false 0xC#4 0xB#4 0xC00#12) ∧
    decodeArm 0b1001_010_0_0_1_1_1_0111_1110_001011011011#32 = some (.ldrbtImm .ls false 0x7#4 0xE#4 0x2DB#12) := by decide +kernel

theorem test_decode_a14pre :
    decodeArm 0b0010_011_1_0_0_1_0_1010_0101_00010_10_0_0101#32 = some (.strRegPre .cs false true 0xA#4 0x5#4 0x2#5 .asr 0x5#4) ∧
    decodeArm 0b1100_011_1_1_0_1_1_0110_0111_01100_10_0_0101#32 = some (.ldrRegPre .gt true true 0x6#4 0x7#4 0xC#5 .asr 0x5#4) ∧
    decodeArm 0b0110_011_1_0_1_1_0_0010_0010_00101_10_0_0101#32 = some (.strbRegPre .vs false true 0x2#4 0x2#4 0x5#5 .asr 0x5#4) ∧
    decodeArm 0b0101_011_1_0_1_1_1_1110_0111_11001_10_0_0010#32 = some (.ldrbRegPre .pl false true 0xE#4 0x7#4 0x19#5 .asr 0x2#4) := by decide +kernel

theorem test_decode_a14post :
    decodeArm 0b1001_011_0_1_0_0_0_1101_1001_00101_01_0_1010#32 = some (.strRegPost .ls true 0xD#4 0x9#4 0x5#5 .lsr 0xA#4) ∧
    decodeArm 0b0101_011_0_1_0_1_0_0101_0010_10001_10_0_0010#32 = some (.strtReg .pl true 0x5#4 0x2#4 0x11#5 .asr 0x2#4) ∧
    decodeArm 0b0011_011_0_0_0_0_1_0101_1100_00101_10_0_1010#32 = some (.ldrRegPost .cc false 0x5#4 0xC#4 0x5#5 .asr 0xA#4) ∧
    decodeArm 0b1010_011_0_0_0_1_1_1000_1011_11101_10_0_0110#32 = some (.ldrtReg .ge false 0x8#4 0xB#4 0x1D#5 .asr 0x6#4) ∧
    decodeArm 0b1101_011_0_1_1_0_0_1101_0011_11010_10_0_0011#32 = some (.strbRegPost .le true 0xD#4 0x3#4 0x1A#5 .asr 0x3#4) ∧
    decodeArm 0b0100_011_0_0_1_1_0_0100_0011_01001_10_0_0011#32 = some (.strbtReg .mi false 0x4#4 0x3#4 0x9#5 .asr 0x3#4) ∧
    decodeArm 0b0111_011_0_1_1_0_1_1001_0101_01000_10_0_0110#32 = some (.ldrbRegPost .vc true 0x9#4 0x5#4 0x8#5 .asr 0x6#4) ∧
    decodeArm 0b1110_011_0_1_1_1_1_0010_0101_11101_10_0_0101#32 = some (.ldrbtReg .al true 0x2#4 0x5#4 0x1D#5 .asr 0x5#4) := by decide +kernel

theorem test_decode_a15 :
    decodeArm 0b0101_100_1_0_1_1_0_1101_1110011101111111#32 = some (.stm .pl true false true true 0xD#4 0xE77F#16) ∧
    decodeArm 0b1100_100_1_0_1_1_1_1110_1000000001101100#32 = some (.ldm .gt true false true true 0xE#4 0x806C#16) := by decide +kernel

theorem test_decode_a16 :
    decodeArm 0b0011_101_0_001000010111100110110011#32 = some (.b .cc 0x2179B3#24) ∧
    decodeArm 0b1010_101_1_100010000010010110101110#32 = some (.bl .ge 0x8825AE#24) := by decide +kernel

theorem test_decode_a17 :
    decodeArm 0b0001_110_0_1_1_0_0_1101_0111_1100_00101110#32 = some (.stc .ne false true true false 0xD#4 0x7#4 0xC#4 0x2E#8) ∧
    decodeArm 0b1000_110_1_0_1_1_1_0010_0010_0010_01111001#32 = some (.ldc .hi true false true true 0x2#4 0x2#4 0x2#4 0x79#8) := by decide +kernel

theorem test_decode_a18 :
    decodeArm 0b0101_1110_1001_1011_0001_1000_101_0_0101#32 = some (.cdp .pl 0x9#4 0xB#4 0x1#4 0x8#4 0x5#3 0x5#4) := by decide +kernel

theorem test_decode_a19 :
    decodeArm 0b0110_1110_101_0_1000_1000_1000_011_1_1100#32 = some (.mcr .vs 0x5#3 0x8#4 0x8#4 0x8#4 0x3#3 0xC#4) ∧
    decodeArm 0b1101_1110_110_1_0001_1110_1000_101_1_0011#32 = some (.mrc .le 0x6#3 0x1#4 0xE#4 0x8#4 0x5#3 0x3#4) := by decide +kernel

theorem test_decode_a20 :
    decodeArm 0b0100_1111_001100001111100101110000#32 = some (.swi .mi 0x30F970#24) := by decide +kernel

theorem test_decode_u_1 :
    decodeArm 0b1000_0000_0110_0101_1010_0011_1001_1100#32 = some (.undefMulSpace .hi) ∧
    decodeArm 0b1101_0001_1010_0101_1010_0011_1001_1100#32 = some (.undefSwapBit23 .le) ∧
    decodeArm 0b0010_0001_0101_0101_1010_0011_1001_1100#32 = some (.undefSwapBit20 .cs) ∧
    decodeArm 0b0111_0001_0110_0101_1010_0011_1001_1100#32 = some (.undefSwapBit21 .vc) ∧
    decodeArm 0b1100_0001_1100_0101_1010_0011_1101_1100#32 = some (.undefHalfStore .gt) ∧
    decodeArm 0b0001_0001_0000_0101_1010_0011_1000_1100#32 = some (.undefTestBit7 .ne) ∧
    decodeArm 0b0110_0001_0000_0101_1010_0011_0100_1100#32 = some (.undefTestLsl01 .vs) ∧
    decodeArm 0b1011_0001_0000_0101_1010_0011_0010_1100#32 = some (.undefTestLo2 .lt) := by decide +kernel

theorem test_decode_u_2 :
    decodeArm 0b0000_0001_0100_0101_1010_0011_0101_1100#32 = some (.undefTestBit6Reg .eq) ∧
    decodeArm 0b0101_0001_0010_0101_1010_0011_0011_1100#32 = some (.undefTestLo3 .pl) ∧
    decodeArm 0b1010_0001_0000_0101_1010_0011_0001_1100#32 = some (.undefMrsLo1 .ge) ∧
    decodeArm 0b1111_0001_0110_0101_1010_0011_0001_1100#32 = some (.undefMsrSpsrLo1 .nv) ∧
    decodeArm 0b0100_0011_0100_0101_1010_0011_0110_1100#32 = some (.undefTestImm .mi) ∧
    decodeArm 0b1001_0111_1111_0000_0000_0000_1111_0000#32 = some (.undefRegOffsetBit4 .ls) := by decide +kernel

theorem test_decode_t1 :
    decodeThumb 0b000_00_01000_101_110#16 = some (.tLslImm 0x8#5 0x5#4 0x6#4) ∧
    decodeThumb 0b000_01_00011_100_011#16 = some (.tLsrImm 0x3#5 0x4#4 0x3#4) ∧
    decodeThumb 0b000_10_10001_101_110#16 = some (.tAsrImm 0x11#5 0x5#4 0x6#4) := by decide +kernel

theorem test_decode_t2r :
    decodeThumb 0b00011_0_0_101_101_101#16 = some (.tAddReg 0x5#4 0x5#4 0x5#4) ∧
    decodeThumb 0b00011_0_1_011_010_100#16 = some (.tSubReg 0x3#4 0x2#4 0x4#4) := by decide +kernel

theorem test_decode_t2i :
    decodeThumb 0b00011_1_0_101_100_100#16 = some (.tAddImm3 0x5#3 0x4#4 0x4#4) ∧
    decodeThumb 0b00011_1_1_100_001_101#16 = some (.tSubImm3 0x4#3 0x1#4 0x5#4) := by decide +kernel

theorem test_decode_t3 :
    decodeThumb 0b001_00_010_01110011#16 = some (.tMovImm8 0x2#4 0x73#8) ∧
    decodeThumb 0b001_01_100_10001000#16 = some (.tCmpImm8 0x4#4 0x88#8) ∧
    decodeThumb 0b001_10_110_01111010#16 = some (.tAddImm8 0x6#4 0x7A#8) ∧
    decodeThumb 0b001_11_100_11110001#16 = some (.tSubImm8 0x4#4 0xF1#8) := by decide +kernel

theorem test_decode_t4_1 :
    decodeThumb 0b010000_0000_001_101#16 = some (.tAnd 0x1#4 0x5#4) ∧
    decodeThumb 0b010000_0001_100_101#16 = some (.tEor 0x4#4 0x5#4) ∧
    decodeThumb 0b010000_0010_101_101#16 = some (.tLslReg 0x5#4 0x5#4) ∧
    decodeThumb 0b010000_0011_101_010#16 = some (.tLsrReg 0x5#4 0x2#4) ∧
    decodeThumb 0b010000_0100_101_100#16 = some (.tAsrReg 0x5#4 0x4#4) ∧
    decodeThumb 0b010000_0101_101_101#16 = some (.tAdc 0x5#4 0x5#4) ∧
    decodeThumb 0b010000_0110_001_110#16 = some (.tSbc 0x1#4 0x6#4) ∧
    decodeThumb 0b010000_0111_011_001#16 = some (.tRor 0x3#4 0x1#4) := by decide +kernel

theorem test_decode_t4_2 :
    decodeThumb 0b010000_1000_011_101#16 = some (.tTst 0x3#4 0x5#4) ∧
    decodeThumb 0b010000_1001_011_011#16 = some (.tNeg 0x3#4 0x3#4) ∧
    decodeThumb 0b010000_1010_010_101#16 = some (.tCmpReg 0x2#4 0x5#4) ∧
    decodeThumb 0b010000_1011_101_001#16 = some (.tCmn 0x5#4 0x1#4) ∧
    decodeThumb 0b010000_1100_011_101#16 = some (.tOrr 0x3#4 0x5#4) ∧
    decodeThumb 0b010000_1101_001_101#16 = some (.tMul 0x1#4 0x5#4) ∧
    decodeThumb 0b010000_1110_010_110#16 = some (.tBic 0x2#4 0x6#4) ∧
    decodeThumb 0b010000_1111_101_101#16 = some (.tMvn 0x5#4 0x5#4) := by decide +kernel

theorem test_decode_t5 :
    decodeThumb 0b010001_00_0_1_100_010#16 = some (.tAddHi 0xC#4 0x2#4) ∧
    decodeThumb 0b010001_01_1_0_101_011#16 = some (.tCmpHi 0x5#4 0xB#4) ∧
    decodeThumb 0b010001_10_1_1_010_010#16 = some (.tMovHi 0xA#4 0xA#4) := by decide +kernel

theorem test_decode_t5bx :
    decodeThumb 0b010001_11_0_0_010_000#16 = some (.tBx false 0x2#4) := by decide +kernel

theorem test_decode_t6 :
    decodeThumb 0b01001_010_11100010#16 = some (.tLdrPc 0x2#4 0xE2#8) := by decide +kernel

theorem test_decode_t7 :
    decodeThumb 0b0101_0_0_0_001_101_011#16 = some (.tStrReg 0x1#4 0x5#4 0x3#4) ∧
    decodeThumb 0b0101_0_1_0_001_101_101#16 = some (.tStrbReg 0x1#4 0x5#4 0x5#4) ∧
    decodeThumb 0b0101_1_0_0_101_011_101#16 = some (.tLdrReg 0x5#4 0x3#4 0x5#4) ∧
    decodeThumb 0b0101_1_1_0_011_001_101#16 = some (.tLdrbReg 0x3#4 0x1#4 0x5#4) := by decide +kernel

theorem test_decode_t8 :
    decodeThumb 0b0101_0_0_1_101_110_001#16 = some (.tStrhReg 0x5#4 0x6#4 0x1#4) ∧
    decodeThumb 0b0101_0_1_1_001_101_011#16 = some (.tLdsbReg 0x1#4 0x5#4 0x3#4) ∧
    decodeThumb 0b0101_1_0_1_101_100_011#16 = some (.tLdrhReg 0x5#4 0x4#4 0x3#4) ∧
    decodeThumb 0b0101_1_1_1_010_011_001#16 = some (.tLdshReg 0x2#4 0x3#4 0x1#4) := by decide +kernel

theorem test_decode_t9 :
    decodeThumb 0b011_0_0_01011_010_101#16 = some (.tStrImm 0xB#5 0x2#4 0x5#4) ∧
    decodeThumb 0b011_0_1_10111_010_101#16 = some (.tLdrImm 0x17#5 0x2#4 0x5#4) ∧
    decodeThumb 0b011_1_0_01010_100_011#16 = some (.tStrbImm 0xA#5 0x4#4 0x3#4) ∧
    decodeThumb 0b011_1_1_01110_101_101#16 = some (.tLdrbImm 0xE#5 0x5#4 0x5#4) := by decide +kernel

theorem test_decode_t10 :
    decodeThumb 0b1000_0_01100_010_100#16 = some (.tStrhImm 0xC#5 0x2#4 0x4#4) ∧
    decodeThumb 0b1000_1_10011_010_100#16 = some (.tLdrhImm 0x13#5 0x2#4 0x4#4) := by decide +kernel

theorem test_decode_t11 :
    decodeThumb 0b1001_0_101_00010000#16 = some (.tStrSp 0x5#4 0x10#8) ∧
    decodeThumb 0b1001_1_101_11111100#16 = some (.tLdrSp 0x5#4 0xFC#8) := by decide +kernel

theorem test_decode_t12 :
    decodeThumb 0b1010_0_101_11001001#16 = some (.tAddPc 0x5#4 0xC9#8) ∧
    decodeThumb 0b1010_1_001_11111000#16 = some (.tAddSp 0x1#4 0xF8#8) := by decide +kernel

theorem test_decode_t13 :
    decodeThumb 0b10110000_0_1110000#16 = some (.tIncSp 0x70#7) ∧
    decodeThumb 0b10110000_1_0001101#16 = some (.tDecSp 0xD#7) := by decide +kernel

theorem test_decode_t14push :
    decodeThumb 0b1011_0_10_0_01000011#16 = some (.tPush false 0x43#8) := by decide +kernel

theorem test_decode_t14pop :
    decodeThumb 0b1011_1_10_0_00001010#16 = some (.tPop false 0xA#8) := by decide +kernel

theorem test_decode_t15 :
    decodeThumb 0b1100_0_101_11000111#16 = some (.tStmia 0x5#4 0xC7#8) ∧
    decodeThumb 0b1100_1_001_01000101#16 = some (.tLdmia 0x1#4 0x45#8) := by decide +kernel

theorem test_decode_t16_1 :
    decodeThumb 0b1101_0000_11000001#16 = some (.tBeq 0xC1#8) ∧
    decodeThumb 0b1101_0001_00100001#16 = some (.tBne 0x21#8) ∧
    decodeThumb 0b1101_0010_11010001#16 = some (.tBcs 0xD1#8) ∧
    decodeThumb 0b1101_0011_01101100#16 = some (.tBcc 0x6C#8) ∧
    decodeThumb 0b1101_0100_11011001#16 = some (.tBmi 0xD9#8) ∧
    decodeThumb 0b1101_0101_11101001#16 = some (.tBpl 0xE9#8) ∧
    decodeThumb 0b1101_0110_10101101#16 = some (.tBvs 0xAD#8) ∧
    decodeThumb 0b1101_0111_11010001#16 = some (.tBvc 0xD1#8) := by decide +kernel

theorem test_decode_t16_2 :
    decodeThumb 0b1101_1000_11110010#16 = some (.tBhi 0xF2#8) ∧
    decodeThumb 0b1101_1001_01000010#16 = some (.tBls 0x42#8) ∧
    decodeThumb 0b1101_1010_01100111#16 = some (.tBge 0x67#8) ∧
    decodeThumb 0b1101_1011_00100110#16 = some (.tBlt 0x26#8) ∧
    decodeThumb 0b1101_1100_10001001#16 = some (.tBgt 0x89#8) ∧
    decodeThumb 0b1101_1101_11101011#16 = some (.tBle 0xEB#8) := by decide +kernel

theorem test_decode_t17 :
    decodeThumb 0b11011111_10000011#16 = some (.tSwi 0x83#8) := by decide +kernel

theorem test_decode_t18 :
    decodeThumb 0b11100_10010010000#16 = some (.tB 0x490#11) := by decide +kernel

theorem test_decode_t19 :
    decodeThumb 0b1111_0_01111110100#16 = some (.tBlHigh 0x3F4#11) ∧
    decodeThumb 0b1111_1_10110011010#16 = some (.tBlLow 0x59A#11) := by decide +kernel

theorem test_decode_tu :
    decodeThumb 0b1011000101_101100#16 = some .tUndefB1 ∧
    decodeThumb 0b1011001011_101100#16 = some .tUndefB2 ∧
    decodeThumb 0b1011011000_101100#16 = some .tUndefB6 ∧
    decodeThumb 0b1011100001_101100#16 = some .tUndefB8 ∧
    decodeThumb 0b1011111011_101100#16 = some .tUndefBe ∧
    decodeThumb 0b1101111001_101100#16 = some .tUndefDe ∧
    decodeThumb 0b1110101100_101100#16 = some .tUndefE8 := by decide +kernel

/-- The table's words, through the host's own name: a Thumb row and an ARM row. -/
theorem test_decode_table_word : decodeTableWord 16 0x4770 = some (.tBx false 14#4) ∧
    decodeTableWord 32 0xE1A0F00E = some (.movShiftImm .al false 0#4 15#4 0#5 .lsl 14#4) := by
  decide +kernel

/-- R62: should-be-one and should-be-zero bits select nothing: BX with its SBO fields clear is still BX. -/
theorem test_decode_ignores_sbo : decodeArm 0xE1200010#32 = some (.bx .al 0#4) := by decide +kernel

/-- Too few bytes are refused by name, and never read as a neighbour. -/
theorem test_decode_short : decode false [0x00#8, 0x00#8, 0x00#8] = .error .truncated ∧
    decode true [0x00#8] = .error .truncated := by decide

/-- R42, R60: the byte at the lowest address is the least significant one; what follows is left over. -/
theorem test_decode_bytes : decode false [0x1E#8, 0xFF#8, 0x2F#8, 0xE1#8, 0x77#8] = .ok (.bx .al 14#4, [0x77#8]) ∧
    decode true [0x70#8, 0x47#8, 0x77#8] = .ok (.tBx false 14#4, [0x77#8]) := by decide +kernel

/-! ## One-step tests: vectors of spec/96_test_vectors_families.md, each with its line of the file -/

/-- spec/96 section 1: ADD r0, pc, #8. -/
theorem test_addImm : endsIn (run 0xE28F0008 (machine 0x10#32 0x100#32 [] [])) (fun t =>
    t.reg .r0 == 0x110#32 && !Psr.n t.cpsr && !Psr.z t.cpsr && !Psr.c t.cpsr && !Psr.v t.cpsr) = true := by decide +kernel

/-- spec/96 section 1: MOV r0, pc, LSL r1. -/
theorem test_movShiftReg : endsIn (run 0xE1A0011F (machine 0x10#32 0x100#32 [(.r1, 0x0#32)] [])) (fun t =>
    t.reg .r0 == 0x10C#32 && !Psr.n t.cpsr && !Psr.z t.cpsr && !Psr.c t.cpsr && !Psr.v t.cpsr) = true := by decide +kernel

/-- spec/96 section 1: ADD r0, pc, r1, LSL r2. -/
theorem test_addShiftReg : endsIn (run 0xE08F0211 (machine 0x10#32 0x100#32 [(.r1, 0x1#32), (.r2, 0x4#32)] [])) (fun t =>
    t.reg .r0 == 0x11C#32 && !Psr.n t.cpsr && !Psr.z t.cpsr && !Psr.c t.cpsr && !Psr.v t.cpsr) = true := by decide +kernel

/-- spec/96 section 1: MOVS r0, r1, LSR #1. -/
theorem test_movShiftImm : endsIn (run 0xE1B000A1 (machine 0x10#32 0x100#32 [(.r1, 0x3#32)] [])) (fun t =>
    t.reg .r0 == 0x1#32 && !Psr.n t.cpsr && !Psr.z t.cpsr && Psr.c t.cpsr && !Psr.v t.cpsr) = true := by decide +kernel

/-- spec/96 section 1: ANDS r0, r1, #0xFF000000. -/
theorem test_andImm : endsIn (run 0xE21104FF (machine 0x10#32 0x100#32 [(.r1, 0x80FFFFFF#32)] [])) (fun t =>
    t.reg .r0 == 0x80000000#32 && Psr.n t.cpsr && !Psr.z t.cpsr && Psr.c t.cpsr && !Psr.v t.cpsr) = true := by decide +kernel

/-- spec/96 section 1: ADCS r0, r1, r2, RRX. -/
theorem test_adcShiftImm : endsIn (run 0xE0B10062 (machine 0x20000010#32 0x100#32 [(.r1, 0x1#32), (.r2, 0x3#32)] [])) (fun t =>
    t.reg .r0 == 0x80000003#32 && Psr.n t.cpsr && !Psr.z t.cpsr && !Psr.c t.cpsr && !Psr.v t.cpsr) = true := by decide +kernel

/-- spec/96 section 1: RSBS r0, r1, #0. -/
theorem test_rsbImm : endsIn (run 0xE2710000 (machine 0x10#32 0x100#32 [(.r1, 0x80000000#32)] [])) (fun t =>
    t.reg .r0 == 0x80000000#32 && Psr.n t.cpsr && !Psr.z t.cpsr && !Psr.c t.cpsr && Psr.v t.cpsr) = true := by decide +kernel

/-- spec/96 section 1: TEQ r1, r2 (Rd field = 15). -/
theorem test_teqShiftImm : endsIn (run 0xE131F002 (machine 0x10#32 0x100#32 [(.r1, 0x1#32), (.r2, 0x1#32)] [])) (fun t =>
    t.pc == 0x104#32 && !Psr.n t.cpsr && Psr.z t.cpsr && !Psr.c t.cpsr && !Psr.v t.cpsr) = true := by decide +kernel

/-- spec/96 section 1: CMP r1, #0. -/
theorem test_cmpImm : endsIn (run 0xE3510000 (machine 0x10#32 0x100#32 [(.r1, 0x0#32)] [])) (fun t =>
    t.pc == 0x104#32 && !Psr.n t.cpsr && Psr.z t.cpsr && Psr.c t.cpsr && !Psr.v t.cpsr) = true := by decide +kernel

/-- spec/96 section 1: MVNS r0, #0. -/
theorem test_mvnImm : endsIn (run 0xE3F00000 (machine 0x20000010#32 0x100#32 [] [])) (fun t =>
    t.reg .r0 == 0xFFFFFFFF#32 && Psr.n t.cpsr && !Psr.z t.cpsr && Psr.c t.cpsr && !Psr.v t.cpsr) = true := by decide +kernel

/-- spec/96 section 1: MOVS pc, lr in User mode. -/
theorem test_movShiftImm_2 : endsIn (run 0xE1B0F00E (machine 0x10#32 0x100#32 [(.r14usr, 0x80000200#32)] [])) (fun t =>
    t.pc == 0x80000200#32 && t.cpsr == 0x80000010#32 && Psr.n t.cpsr && !Psr.z t.cpsr && !Psr.c t.cpsr && !Psr.v t.cpsr) = true := by decide +kernel

/-- spec/96 section 2: MULS r0, r1, r2. -/
theorem test_mul : endsIn (run 0xE0100291 (machine 0xF0000010#32 0x100#32 [(.r1, 0x3#32), (.r2, 0xFFFFFFFF#32)] [])) (fun t =>
    t.reg .r0 == 0xFFFFFFFD#32 && Psr.n t.cpsr && !Psr.z t.cpsr && !Psr.c t.cpsr && !Psr.v t.cpsr && t.delay == 1) = true := by decide +kernel

/-- spec/96 section 2: MLAS r0, r1, r2, r3. -/
theorem test_mla : endsIn (run 0xE0303291 (machine 0xF0000010#32 0x100#32 [(.r1, 0x10000#32), (.r2, 0x10000#32), (.r3, 0x80000000#32)] [])) (fun t =>
    t.reg .r0 == 0x80000000#32 && Psr.n t.cpsr && !Psr.z t.cpsr && !Psr.c t.cpsr && !Psr.v t.cpsr && t.delay == 4) = true := by decide +kernel

/-- spec/96 section 2: UMULLS r0, r1, r2, r3. -/
theorem test_umull : endsIn (run 0xE0910392 (machine 0xF0000010#32 0x100#32 [(.r2, 0xFFFFFFFF#32), (.r3, 0xFFFFFFFF#32)] [])) (fun t =>
    t.reg .r1 == 0xFFFFFFFE#32 && t.reg .r0 == 0x1#32 && Psr.n t.cpsr && !Psr.z t.cpsr && !Psr.c t.cpsr && !Psr.v t.cpsr && t.delay == 5) = true := by decide +kernel

/-- spec/96 section 2: UMLALS r0, r1, r2, r3. -/
theorem test_umlal : endsIn (run 0xE0B10392 (machine 0xF0000010#32 0x100#32 [(.r0, 0xFFFFFFFF#32), (.r1, 0xFFFFFFFF#32), (.r2, 0x1#32), (.r3, 0x1#32)] [])) (fun t =>
    t.reg .r1 == 0x0#32 && t.reg .r0 == 0x0#32 && !Psr.n t.cpsr && Psr.z t.cpsr && !Psr.c t.cpsr && !Psr.v t.cpsr && t.delay == 3) = true := by decide +kernel

/-- spec/96 section 2: SMULLS r0, r1, r2, r3. -/
theorem test_smull : endsIn (run 0xE0D10392 (machine 0xF0000010#32 0x100#32 [(.r2, 0x80000000#32), (.r3, 0x80000000#32)] [])) (fun t =>
    t.reg .r1 == 0x40000000#32 && t.reg .r0 == 0x0#32 && !Psr.n t.cpsr && !Psr.z t.cpsr && !Psr.c t.cpsr && !Psr.v t.cpsr && t.delay == 5) = true := by decide +kernel

/-- spec/96 section 2: SMLAL r0, r1, r2, r3. -/
theorem test_smlal : endsIn (run 0xE0E10392 (machine 0xF0000010#32 0x100#32 [(.r0, 0x1#32), (.r1, 0x0#32), (.r2, 0xFFFFFFFF#32), (.r3, 0x1#32)] [])) (fun t =>
    t.reg .r1 == 0x0#32 && t.reg .r0 == 0x0#32 && Psr.n t.cpsr && Psr.z t.cpsr && Psr.c t.cpsr && Psr.v t.cpsr && t.delay == 3) = true := by decide +kernel

/-- spec/96 section 3: LDR r0, [r1]. -/
theorem test_ldrImmPre : endsIn (run 0xE5910000 (machine 0x10#32 0x100#32 [(.r1, 0x2001#32)] [(0x2000#32, 0x44332211#32), (0x2004#32, 0x88776655#32), (0x2008#32, 0xCCBBAA99#32)])) (fun t =>
    t.reg .r0 == 0x11443322#32 && t.delay == 3) = true := by decide +kernel

/-- spec/96 section 3: LDR r0, [r1, #4]!. -/
theorem test_ldrImmPre_2 : endsIn (run 0xE5B10004 (machine 0x10#32 0x100#32 [(.r1, 0x2000#32)] [(0x2000#32, 0x44332211#32), (0x2004#32, 0x88776655#32), (0x2008#32, 0xCCBBAA99#32)])) (fun t =>
    t.reg .r0 == 0x88776655#32 && t.reg .r1 == 0x2004#32 && t.delay == 3) = true := by decide +kernel

/-- spec/96 section 3: LDR r0, [r1], #4. -/
theorem test_ldrImmPost : endsIn (run 0xE4910004 (machine 0x10#32 0x100#32 [(.r1, 0x2000#32)] [(0x2000#32, 0x44332211#32), (0x2004#32, 0x88776655#32), (0x2008#32, 0xCCBBAA99#32)])) (fun t =>
    t.reg .r0 == 0x44332211#32 && t.reg .r1 == 0x2004#32 && t.delay == 3) = true := by decide +kernel

/-- spec/96 section 3: LDR r0, [r1, -r2, LSL #2]. -/
theorem test_ldrRegPre : endsIn (run 0xE7110102 (machine 0x10#32 0x100#32 [(.r1, 0x2008#32), (.r2, 0x1#32)] [(0x2000#32, 0x44332211#32), (0x2004#32, 0x88776655#32), (0x2008#32, 0xCCBBAA99#32)])) (fun t =>
    t.reg .r0 == 0x88776655#32 && t.reg .r1 == 0x2008#32 && t.delay == 3) = true := by decide +kernel

/-- spec/96 section 3: LDRB r0, [r1, #3]. -/
theorem test_ldrbImmPre : endsIn (run 0xE5D10003 (machine 0x10#32 0x100#32 [(.r1, 0x2004#32)] [(0x2000#32, 0x44332211#32), (0x2004#32, 0x88776655#32), (0x2008#32, 0xCCBBAA99#32)])) (fun t =>
    t.reg .r0 == 0x88#32 && t.delay == 3) = true := by decide +kernel

/-- spec/96 section 3: STR r0, [r1, #2]. -/
theorem test_strImmPre : endsIn (run 0xE5810002 (machine 0x10#32 0x100#32 [(.r0, 0xDEADBEEF#32), (.r1, 0x3000#32)] [(0x2000#32, 0x44332211#32), (0x2004#32, 0x88776655#32), (0x2008#32, 0xCCBBAA99#32)])) (fun t =>
    t.mem.read32 0x3000#32 == 0xDEADBEEF#32 && t.delay == 2) = true := by decide +kernel

/-- spec/96 section 3: STR r1, [r1, #4]!. -/
theorem test_strImmPre_2 : endsIn (run 0xE5A11004 (machine 0x10#32 0x100#32 [(.r1, 0x3000#32)] [(0x2000#32, 0x44332211#32), (0x2004#32, 0x88776655#32), (0x2008#32, 0xCCBBAA99#32)])) (fun t =>
    t.mem.read32 0x3004#32 == 0x3000#32 && t.reg .r1 == 0x3004#32 && t.delay == 2) = true := by decide +kernel

/-- spec/96 section 3: STRB r0, [r1]. -/
theorem test_strbImmPre : endsIn (run 0xE5C10000 (machine 0x10#32 0x100#32 [(.r0, 0xABCD#32), (.r1, 0x2001#32)] [(0x2000#32, 0x44332211#32), (0x2004#32, 0x88776655#32), (0x2008#32, 0xCCBBAA99#32)])) (fun t =>
    t.mem.read32 0x2000#32 == 0x4433CD11#32 && t.delay == 2) = true := by decide +kernel

/-- spec/96 section 3: LDRH r0, [r1]. -/
theorem test_ldrhImm : endsIn (run 0xE1D100B0 (machine 0x10#32 0x100#32 [(.r1, 0x2001#32)] [(0x2000#32, 0x44332211#32), (0x2004#32, 0x88776655#32), (0x2008#32, 0xCCBBAA99#32)])) (fun t =>
    t.reg .r0 == 0x11000022#32 && t.delay == 3) = true := by decide +kernel

/-- spec/96 section 3: LDRSH r0, [r1]. -/
theorem test_ldrshImm : endsIn (run 0xE1D100F0 (machine 0x10#32 0x100#32 [(.r1, 0x2007#32)] [(0x2000#32, 0x44332211#32), (0x2004#32, 0x88776655#32), (0x2008#32, 0xCCBBAA99#32)])) (fun t =>
    t.reg .r0 == 0xFFFFFF88#32 && t.delay == 3) = true := by decide +kernel

/-- spec/96 section 3: LDRSB r0, [r1, #-1]. -/
theorem test_ldrsbImm : endsIn (run 0xE15100D1 (machine 0x10#32 0x100#32 [(.r1, 0x2009#32)] [(0x2000#32, 0x44332211#32), (0x2004#32, 0x88776655#32), (0x2008#32, 0xCCBBAA99#32)])) (fun t =>
    t.reg .r0 == 0xFFFFFF99#32 && t.delay == 3) = true := by decide +kernel

/-- spec/96 section 3: LDRH r0, [r1], r2. -/
theorem test_ldrhReg : endsIn (run 0xE09100B2 (machine 0x10#32 0x100#32 [(.r1, 0x2000#32), (.r2, 0x6#32)] [(0x2000#32, 0x44332211#32), (0x2004#32, 0x88776655#32), (0x2008#32, 0xCCBBAA99#32)])) (fun t =>
    t.reg .r0 == 0x2211#32 && t.reg .r1 == 0x2006#32 && t.delay == 3) = true := by decide +kernel

/-- spec/96 section 3: STRH r0, [r1, #2]!. -/
theorem test_strhImm : endsIn (run 0xE1E100B2 (machine 0x10#32 0x100#32 [(.r0, 0x12345678#32), (.r1, 0x3000#32)] [(0x2000#32, 0x44332211#32), (0x2004#32, 0x88776655#32), (0x2008#32, 0xCCBBAA99#32)])) (fun t =>
    t.mem.read32 0x3000#32 == 0x56780000#32 && t.reg .r1 == 0x3002#32 && t.delay == 2) = true := by decide +kernel

/-- spec/96 section 3: SWP r0, r0, [r1]. -/
theorem test_swp : endsIn (run 0xE1010090 (machine 0x10#32 0x100#32 [(.r0, 0xAAAAAAAA#32), (.r1, 0x2004#32)] [(0x2000#32, 0x44332211#32), (0x2004#32, 0x88776655#32), (0x2008#32, 0xCCBBAA99#32)])) (fun t =>
    t.reg .r0 == 0x88776655#32 && t.mem.read32 0x2004#32 == 0xAAAAAAAA#32 && t.delay == 3) = true := by decide +kernel

/-- spec/96 section 3: SWPB r0, r2, [r1]. -/
theorem test_swpb : endsIn (run 0xE1410092 (machine 0x10#32 0x100#32 [(.r1, 0x2002#32), (.r2, 0x1FF#32)] [(0x2000#32, 0x44332211#32), (0x2004#32, 0x88776655#32), (0x2008#32, 0xCCBBAA99#32)])) (fun t =>
    t.reg .r0 == 0x33#32 && t.mem.read32 0x2000#32 == 0x44FF2211#32 && t.delay == 3) = true := by decide +kernel

/-- spec/96 section 4: STMDA r0!, (r1-r3). -/
theorem test_stm : endsIn (run 0xE820000E (machine 0x10#32 0x100#32 [(.r0, 0x1000#32), (.r1, 0x11#32), (.r2, 0x22#32), (.r3, 0x33#32)] [])) (fun t =>
    t.reg .r0 == 0xFF4#32 && t.mem.read32 0xFF8#32 == 0x11#32 && t.mem.read32 0xFFC#32 == 0x22#32 && t.mem.read32 0x1000#32 == 0x33#32) = true := by decide +kernel

/-- spec/96 section 4: STMIA r1!, (r0, r1). -/
theorem test_stm_2 : endsIn (run 0xE8A10003 (machine 0x10#32 0x100#32 [(.r0, 0x7#32), (.r1, 0x3000#32)] [])) (fun t =>
    t.mem.read32 0x3000#32 == 0x7#32 && t.mem.read32 0x3004#32 == 0x3008#32 && t.reg .r1 == 0x3008#32 && t.delay == 2) = true := by decide +kernel

/-- spec/96 section 4: LDMDA r0!, (r1-r3). -/
theorem test_ldm : endsIn (run 0xE830000E (machine 0x10#32 0x100#32 [(.r0, 0x1000#32), (.r1, 0x11#32), (.r2, 0x22#32), (.r3, 0x33#32)] [(0xFF0#32, 0xA0#32), (0xFF4#32, 0xA1#32), (0xFF8#32, 0xA2#32), (0xFFC#32, 0xA3#32), (0x1000#32, 0xA4#32), (0x1004#32, 0xA5#32), (0x1008#32, 0xA6#32), (0x100C#32, 0xA7#32)])) (fun t =>
    t.reg .r1 == 0xA2#32 && t.reg .r2 == 0xA3#32 && t.reg .r3 == 0xA4#32 && t.reg .r0 == 0xFF4#32) = true := by decide +kernel

/-- spec/96 section 4: LDMIA sp!, (r0, pc)^ in IRQ mode. -/
theorem test_ldm_2 : endsIn (run 0xE8FD8001 ((machine 0xD2#32 0x100#32 [(.r13irq, 0x2000#32)] [(0x2000#32, 0x9#32), (0x2004#32, 0x8000207#32)]).setSpsrCur 0x40000030#32)) (fun t =>
    t.reg .r0 == 0x9#32 && t.pc == 0x8000206#32 && t.cpsr == 0x40000030#32 && t.reg .r13irq == 0x2008#32 && t.delay == 4) = true := by decide +kernel

/-- spec/96 section 5: B 0x0F8 (backwards). -/
theorem test_b : endsIn (run 0xEAFFFFFC (machine 0x10#32 0x100#32 [] [])) (fun t =>
    t.pc == 0xF8#32 && t.delay == 2) = true := by decide +kernel

/-- spec/96 section 5: BL in IRQ mode. -/
theorem test_bl : endsIn (run 0xEB00003E (machine 0xD2#32 0x100#32 [] [])) (fun t =>
    t.pc == 0x200#32 && t.reg .r14irq == 0x104#32 && t.delay == 3) = true := by decide +kernel

/-- spec/96 section 5: BX r0. -/
theorem test_bx : endsIn (run 0xE12FFF10 (machine 0x10#32 0x100#32 [(.r0, 0x201#32)] [])) (fun t =>
    t.pc == 0x200#32 && t.cpsr == 0x30#32 && t.delay == 2) = true := by decide +kernel

/-- spec/96 section 5: MRS r0, SPSR in User mode. -/
theorem test_mrs : endsIn (run 0xE14F0000 (machine 0x80000010#32 0x100#32 [] [])) (fun t =>
    t.reg .r0 == 0x80000010#32 && t.delay == 0) = true := by decide +kernel

/-- spec/96 section 5: MSR CPSR_fc, r0 in SVC mode. -/
theorem test_msrCpsrReg : endsIn (run 0xE129F000 (machine 0xD3#32 0x100#32 [(.r0, 0xF000003F#32)] [])) (fun t =>
    t.cpsr == 0xF000001F#32 && t.delay == 0) = true := by decide +kernel

/-- spec/96 section 5: MSR SPSR_fsxc, r0 in IRQ mode. -/
theorem test_msrSpsrReg : endsIn (run 0xE16FF000 (machine 0xD2#32 0x100#32 [(.r0, 0xF00000FF#32)] [])) (fun t =>
    t.spsrIrq == 0xF00000FF#32 && t.cpsr == 0xD2#32 && t.delay == 0) = true := by decide +kernel

/-- spec/96 section 5: MSR SPSR_f, #0xA0000000 in FIQ mode. -/
theorem test_msrSpsrImm : endsIn (run 0xE368F20A ((machine 0xD1#32 0x100#32 [] []).setSpsrCur 0x10#32)) (fun t =>
    t.spsrFiq == 0xA0000010#32 && t.delay == 0) = true := by decide +kernel

/-- spec/96 section 5: SWI 0 in SVC mode. -/
theorem test_swi : endsIn (run 0xEF000000 (machine 0x20000013#32 0x100#32 [(.r14svc, 0x555#32)] [])) (fun t =>
    t.spsrSvc == 0x20000013#32 && t.cpsr == 0x20000093#32 && t.reg .r14svc == 0x104#32 && t.pc == 0x8#32 && t.delay == 2) = true := by decide +kernel

/-- spec/96 section 5: CDP p1, 0, c0, c0, c0, 0 (policy nop). -/
theorem test_cdp : endsIn (run 0xEE000100 (machine 0x10#32 0x100#32 [] [])) (fun t =>
    t.pc == 0x104#32 && t.cpsr == 0x10#32 && t.delay == 0) = true := by decide +kernel

/-- spec/96 section 5: UNDEFINED 0xE7F000F0 (policy nop). -/
theorem test_undefRegOffsetBit4 : endsIn (run 0xE7F000F0 (machine 0x10#32 0x100#32 [] [])) (fun t =>
    t.pc == 0x104#32 && t.cpsr == 0x10#32 && t.delay == 0) = true := by decide +kernel

/-- spec/96 section 7: LSL r0, r1, #0. -/
theorem test_tLslImm : endsIn (run 0x0008 (machine 0x20000030#32 0x100#32 [(.r1, 0x80000000#32)] [(0x2000#32, 0x44332211#32), (0x2004#32, 0x88776655#32), (0x2008#32, 0xCCBBAA99#32), (0x108#32, 0xFEEDC0DE#32)])) (fun t =>
    t.reg .r0 == 0x80000000#32 && Psr.n t.cpsr && !Psr.z t.cpsr && Psr.c t.cpsr && !Psr.v t.cpsr && t.delay == 0) = true := by decide +kernel

/-- spec/96 section 7: LSR r0, r1, #32 (field 0). -/
theorem test_tLsrImm : endsIn (run 0x0808 (machine 0x30#32 0x100#32 [(.r1, 0x80000000#32)] [(0x2000#32, 0x44332211#32), (0x2004#32, 0x88776655#32), (0x2008#32, 0xCCBBAA99#32), (0x108#32, 0xFEEDC0DE#32)])) (fun t =>
    t.reg .r0 == 0x0#32 && !Psr.n t.cpsr && Psr.z t.cpsr && Psr.c t.cpsr && !Psr.v t.cpsr && t.delay == 0) = true := by decide +kernel

/-- spec/96 section 7: ASR r0, r1, #1. -/
theorem test_tAsrImm : endsIn (run 0x1048 (machine 0x30#32 0x100#32 [(.r1, 0x80000001#32)] [(0x2000#32, 0x44332211#32), (0x2004#32, 0x88776655#32), (0x2008#32, 0xCCBBAA99#32), (0x108#32, 0xFEEDC0DE#32)])) (fun t =>
    t.reg .r0 == 0xC0000000#32 && Psr.n t.cpsr && !Psr.z t.cpsr && Psr.c t.cpsr && !Psr.v t.cpsr && t.delay == 0) = true := by decide +kernel

/-- spec/96 section 7: ADD r0, r1, #0. -/
theorem test_tAddImm3 : endsIn (run 0x1C08 (machine 0x20000030#32 0x100#32 [(.r1, 0x80000000#32)] [(0x2000#32, 0x44332211#32), (0x2004#32, 0x88776655#32), (0x2008#32, 0xCCBBAA99#32), (0x108#32, 0xFEEDC0DE#32)])) (fun t =>
    t.reg .r0 == 0x80000000#32 && Psr.n t.cpsr && !Psr.z t.cpsr && !Psr.c t.cpsr && !Psr.v t.cpsr && t.delay == 0) = true := by decide +kernel

/-- spec/96 section 7: SUB r0, r1, r2. -/
theorem test_tSubReg : endsIn (run 0x1A88 (machine 0x30#32 0x100#32 [(.r1, 0x80000000#32), (.r2, 0x1#32)] [(0x2000#32, 0x44332211#32), (0x2004#32, 0x88776655#32), (0x2008#32, 0xCCBBAA99#32), (0x108#32, 0xFEEDC0DE#32)])) (fun t =>
    t.reg .r0 == 0x7FFFFFFF#32 && !Psr.n t.cpsr && !Psr.z t.cpsr && Psr.c t.cpsr && Psr.v t.cpsr && t.delay == 0) = true := by decide +kernel

/-- spec/96 section 7: MOV r0, #0. -/
theorem test_tMovImm8 : endsIn (run 0x2000 (machine 0x20000030#32 0x100#32 [] [(0x2000#32, 0x44332211#32), (0x2004#32, 0x88776655#32), (0x2008#32, 0xCCBBAA99#32), (0x108#32, 0xFEEDC0DE#32)])) (fun t =>
    t.reg .r0 == 0x0#32 && !Psr.n t.cpsr && Psr.z t.cpsr && Psr.c t.cpsr && !Psr.v t.cpsr && t.delay == 0) = true := by decide +kernel

/-- spec/96 section 7: CMP r0, #255. -/
theorem test_tCmpImm8 : endsIn (run 0x28FF (machine 0x30#32 0x100#32 [(.r0, 0xFF#32)] [(0x2000#32, 0x44332211#32), (0x2004#32, 0x88776655#32), (0x2008#32, 0xCCBBAA99#32), (0x108#32, 0xFEEDC0DE#32)])) (fun t =>
    t.reg .r0 == 0xFF#32 && !Psr.n t.cpsr && Psr.z t.cpsr && Psr.c t.cpsr && !Psr.v t.cpsr && t.delay == 0) = true := by decide +kernel

/-- spec/96 section 7: SUB r0, #1. -/
theorem test_tSubImm8 : endsIn (run 0x3801 (machine 0x30#32 0x100#32 [(.r0, 0x0#32)] [(0x2000#32, 0x44332211#32), (0x2004#32, 0x88776655#32), (0x2008#32, 0xCCBBAA99#32), (0x108#32, 0xFEEDC0DE#32)])) (fun t =>
    t.reg .r0 == 0xFFFFFFFF#32 && Psr.n t.cpsr && !Psr.z t.cpsr && !Psr.c t.cpsr && !Psr.v t.cpsr && t.delay == 0) = true := by decide +kernel

/-- spec/96 section 7: LSL r0, r1 (r1 = 0x100). -/
theorem test_tLslReg : endsIn (run 0x4088 (machine 0x20000030#32 0x100#32 [(.r0, 0x80000001#32), (.r1, 0x100#32)] [(0x2000#32, 0x44332211#32), (0x2004#32, 0x88776655#32), (0x2008#32, 0xCCBBAA99#32), (0x108#32, 0xFEEDC0DE#32)])) (fun t =>
    t.reg .r0 == 0x80000001#32 && Psr.n t.cpsr && !Psr.z t.cpsr && Psr.c t.cpsr && !Psr.v t.cpsr && t.delay == 1) = true := by decide +kernel

/-- spec/96 section 7: LSR r0, r1 (r1 = 33). -/
theorem test_tLsrReg : endsIn (run 0x40C8 (machine 0x20000030#32 0x100#32 [(.r0, 0x80000001#32), (.r1, 0x21#32)] [(0x2000#32, 0x44332211#32), (0x2004#32, 0x88776655#32), (0x2008#32, 0xCCBBAA99#32), (0x108#32, 0xFEEDC0DE#32)])) (fun t =>
    t.reg .r0 == 0x0#32 && !Psr.n t.cpsr && Psr.z t.cpsr && !Psr.c t.cpsr && !Psr.v t.cpsr && t.delay == 1) = true := by decide +kernel

/-- spec/96 section 7: ROR r0, r1 (r1 = 32). -/
theorem test_tRor : endsIn (run 0x41C8 (machine 0x30#32 0x100#32 [(.r0, 0x80000001#32), (.r1, 0x20#32)] [(0x2000#32, 0x44332211#32), (0x2004#32, 0x88776655#32), (0x2008#32, 0xCCBBAA99#32), (0x108#32, 0xFEEDC0DE#32)])) (fun t =>
    t.reg .r0 == 0x80000001#32 && Psr.n t.cpsr && !Psr.z t.cpsr && Psr.c t.cpsr && !Psr.v t.cpsr && t.delay == 1) = true := by decide +kernel

/-- spec/96 section 7: ADC r0, r1. -/
theorem test_tAdc : endsIn (run 0x4148 (machine 0x20000030#32 0x100#32 [(.r0, 0x7FFFFFFF#32), (.r1, 0x0#32)] [(0x2000#32, 0x44332211#32), (0x2004#32, 0x88776655#32), (0x2008#32, 0xCCBBAA99#32), (0x108#32, 0xFEEDC0DE#32)])) (fun t =>
    t.reg .r0 == 0x80000000#32 && Psr.n t.cpsr && !Psr.z t.cpsr && !Psr.c t.cpsr && Psr.v t.cpsr && t.delay == 0) = true := by decide +kernel

/-- spec/96 section 7: SBC r0, r1. -/
theorem test_tSbc : endsIn (run 0x4188 (machine 0x30#32 0x100#32 [(.r0, 0x0#32), (.r1, 0x0#32)] [(0x2000#32, 0x44332211#32), (0x2004#32, 0x88776655#32), (0x2008#32, 0xCCBBAA99#32), (0x108#32, 0xFEEDC0DE#32)])) (fun t =>
    t.reg .r0 == 0xFFFFFFFF#32 && Psr.n t.cpsr && !Psr.z t.cpsr && !Psr.c t.cpsr && !Psr.v t.cpsr && t.delay == 0) = true := by decide +kernel

/-- spec/96 section 7: NEG r0, r1. -/
theorem test_tNeg : endsIn (run 0x4248 (machine 0x30#32 0x100#32 [(.r1, 0x80000000#32)] [(0x2000#32, 0x44332211#32), (0x2004#32, 0x88776655#32), (0x2008#32, 0xCCBBAA99#32), (0x108#32, 0xFEEDC0DE#32)])) (fun t =>
    t.reg .r0 == 0x80000000#32 && Psr.n t.cpsr && !Psr.z t.cpsr && !Psr.c t.cpsr && Psr.v t.cpsr && t.delay == 0) = true := by decide +kernel

/-- spec/96 section 7: MUL r0, r1. -/
theorem test_tMul : endsIn (run 0x4348 (machine 0xF0000030#32 0x100#32 [(.r0, 0x12345#32), (.r1, 0x1000#32)] [(0x2000#32, 0x44332211#32), (0x2004#32, 0x88776655#32), (0x2008#32, 0xCCBBAA99#32), (0x108#32, 0xFEEDC0DE#32)])) (fun t =>
    t.reg .r0 == 0x12345000#32 && !Psr.n t.cpsr && !Psr.z t.cpsr && !Psr.c t.cpsr && !Psr.v t.cpsr && t.delay == 3) = true := by decide +kernel

/-- spec/96 section 7: TST r0, r1. -/
theorem test_tTst : endsIn (run 0x4208 (machine 0x20000030#32 0x100#32 [(.r0, 0x80000000#32), (.r1, 0xFFFFFFFF#32)] [(0x2000#32, 0x44332211#32), (0x2004#32, 0x88776655#32), (0x2008#32, 0xCCBBAA99#32), (0x108#32, 0xFEEDC0DE#32)])) (fun t =>
    t.reg .r0 == 0x80000000#32 && Psr.n t.cpsr && !Psr.z t.cpsr && Psr.c t.cpsr && !Psr.v t.cpsr && t.delay == 0) = true := by decide +kernel

/-- spec/96 section 7: ADD r8, r0 (hi). -/
theorem test_tAddHi : endsIn (run 0x4480 (machine 0xF0000030#32 0x100#32 [(.r8usr, 0xFFFFFFFF#32), (.r0, 0x2#32)] [(0x2000#32, 0x44332211#32), (0x2004#32, 0x88776655#32), (0x2008#32, 0xCCBBAA99#32), (0x108#32, 0xFEEDC0DE#32)])) (fun t =>
    t.reg .r8usr == 0x1#32 && Psr.n t.cpsr && Psr.z t.cpsr && Psr.c t.cpsr && Psr.v t.cpsr && t.delay == 0) = true := by decide +kernel

/-- spec/96 section 7: CMP r8, r0 (hi). -/
theorem test_tCmpHi : endsIn (run 0x4580 (machine 0x30#32 0x100#32 [(.r8usr, 0x1#32), (.r0, 0x2#32)] [(0x2000#32, 0x44332211#32), (0x2004#32, 0x88776655#32), (0x2008#32, 0xCCBBAA99#32), (0x108#32, 0xFEEDC0DE#32)])) (fun t =>
    t.pc == 0x102#32 && Psr.n t.cpsr && !Psr.z t.cpsr && !Psr.c t.cpsr && !Psr.v t.cpsr && t.delay == 0) = true := by decide +kernel

/-- spec/96 section 7: MOV pc, r0 (hi). -/
theorem test_tMovHi : endsIn (run 0x4687 (machine 0x30#32 0x100#32 [(.r0, 0x203#32)] [(0x2000#32, 0x44332211#32), (0x2004#32, 0x88776655#32), (0x2008#32, 0xCCBBAA99#32), (0x108#32, 0xFEEDC0DE#32)])) (fun t =>
    t.pc == 0x202#32 && t.cpsr == 0x30#32 && !Psr.n t.cpsr && !Psr.z t.cpsr && !Psr.c t.cpsr && !Psr.v t.cpsr && t.delay == 2) = true := by decide +kernel

/-- spec/96 section 7: BX r0. -/
theorem test_tBx : endsIn (run 0x4700 (machine 0x30#32 0x100#32 [(.r0, 0x202#32)] [(0x2000#32, 0x44332211#32), (0x2004#32, 0x88776655#32), (0x2008#32, 0xCCBBAA99#32), (0x108#32, 0xFEEDC0DE#32)])) (fun t =>
    t.pc == 0x200#32 && t.cpsr == 0x10#32 && !Psr.n t.cpsr && !Psr.z t.cpsr && !Psr.c t.cpsr && !Psr.v t.cpsr && t.delay == 2) = true := by decide +kernel

/-- spec/96 section 7: ADD r0, PC, #4 at 0x102. -/
theorem test_tAddPc : endsIn (run 0xA001 (machine 0x30#32 0x102#32 [] [(0x2000#32, 0x44332211#32), (0x2004#32, 0x88776655#32), (0x2008#32, 0xCCBBAA99#32), (0x108#32, 0xFEEDC0DE#32)])) (fun t =>
    t.reg .r0 == 0x108#32 && !Psr.n t.cpsr && !Psr.z t.cpsr && !Psr.c t.cpsr && !Psr.v t.cpsr && t.delay == 0) = true := by decide +kernel

/-- spec/96 section 7: ADD r0, SP, #1020. -/
theorem test_tAddSp : endsIn (run 0xA8FF (machine 0x30#32 0x100#32 [(.r13usr, 0x3000#32)] [(0x2000#32, 0x44332211#32), (0x2004#32, 0x88776655#32), (0x2008#32, 0xCCBBAA99#32), (0x108#32, 0xFEEDC0DE#32)])) (fun t =>
    t.reg .r0 == 0x33FC#32 && !Psr.n t.cpsr && !Psr.z t.cpsr && !Psr.c t.cpsr && !Psr.v t.cpsr && t.delay == 0) = true := by decide +kernel

/-- spec/96 section 7: SUB SP, #508. -/
theorem test_tDecSp : endsIn (run 0xB0FF (machine 0x30#32 0x100#32 [(.r13usr, 0x3000#32)] [(0x2000#32, 0x44332211#32), (0x2004#32, 0x88776655#32), (0x2008#32, 0xCCBBAA99#32), (0x108#32, 0xFEEDC0DE#32)])) (fun t =>
    t.reg .r13usr == 0x2E04#32 && !Psr.n t.cpsr && !Psr.z t.cpsr && !Psr.c t.cpsr && !Psr.v t.cpsr && t.delay == 0) = true := by decide +kernel

/-- spec/96 section 7: LDR r0, [PC, #4] at 0x102. -/
theorem test_tLdrPc : endsIn (run 0x4801 (machine 0x30#32 0x102#32 [] [(0x2000#32, 0x44332211#32), (0x2004#32, 0x88776655#32), (0x2008#32, 0xCCBBAA99#32), (0x108#32, 0xFEEDC0DE#32)])) (fun t =>
    t.reg .r0 == 0xFEEDC0DE#32 && !Psr.n t.cpsr && !Psr.z t.cpsr && !Psr.c t.cpsr && !Psr.v t.cpsr && t.delay == 3) = true := by decide +kernel

/-- spec/96 section 7: LDR r0, [r1, #4] (r1 = 0x2001). -/
theorem test_tLdrImm : endsIn (run 0x6848 (machine 0x30#32 0x100#32 [(.r1, 0x2001#32)] [(0x2000#32, 0x44332211#32), (0x2004#32, 0x88776655#32), (0x2008#32, 0xCCBBAA99#32), (0x108#32, 0xFEEDC0DE#32)])) (fun t =>
    t.reg .r0 == 0x55887766#32 && !Psr.n t.cpsr && !Psr.z t.cpsr && !Psr.c t.cpsr && !Psr.v t.cpsr && t.delay == 3) = true := by decide +kernel

/-- spec/96 section 7: LDRH r0, [r1, #2] (r1 = 0x2001). -/
theorem test_tLdrhImm : endsIn (run 0x8848 (machine 0x30#32 0x100#32 [(.r1, 0x2001#32)] [(0x2000#32, 0x44332211#32), (0x2004#32, 0x88776655#32), (0x2008#32, 0xCCBBAA99#32), (0x108#32, 0xFEEDC0DE#32)])) (fun t =>
    t.reg .r0 == 0x33000044#32 && !Psr.n t.cpsr && !Psr.z t.cpsr && !Psr.c t.cpsr && !Psr.v t.cpsr && t.delay == 3) = true := by decide +kernel

/-- spec/96 section 7: LDSH r0, [r1, r2] (odd). -/
theorem test_tLdshReg : endsIn (run 0x5E88 (machine 0x30#32 0x100#32 [(.r1, 0x2000#32), (.r2, 0x7#32)] [(0x2000#32, 0x44332211#32), (0x2004#32, 0x88776655#32), (0x2008#32, 0xCCBBAA99#32), (0x108#32, 0xFEEDC0DE#32)])) (fun t =>
    t.reg .r0 == 0xFFFFFF88#32 && !Psr.n t.cpsr && !Psr.z t.cpsr && !Psr.c t.cpsr && !Psr.v t.cpsr && t.delay == 3) = true := by decide +kernel

/-- spec/96 section 7: LDSB r0, [r1, r2]. -/
theorem test_tLdsbReg : endsIn (run 0x5688 (machine 0x30#32 0x100#32 [(.r1, 0x2000#32), (.r2, 0x8#32)] [(0x2000#32, 0x44332211#32), (0x2004#32, 0x88776655#32), (0x2008#32, 0xCCBBAA99#32), (0x108#32, 0xFEEDC0DE#32)])) (fun t =>
    t.reg .r0 == 0xFFFFFF99#32 && !Psr.n t.cpsr && !Psr.z t.cpsr && !Psr.c t.cpsr && !Psr.v t.cpsr && t.delay == 3) = true := by decide +kernel

/-- spec/96 section 7: STRH r0, [r1, #0] (r1 = 0x3001). -/
theorem test_tStrhImm : endsIn (run 0x8008 (machine 0x30#32 0x100#32 [(.r0, 0xABCD1234#32), (.r1, 0x3001#32)] [(0x2000#32, 0x44332211#32), (0x2004#32, 0x88776655#32), (0x2008#32, 0xCCBBAA99#32), (0x108#32, 0xFEEDC0DE#32)])) (fun t =>
    t.mem.read32 0x3000#32 == 0x1234#32 && !Psr.n t.cpsr && !Psr.z t.cpsr && !Psr.c t.cpsr && !Psr.v t.cpsr && t.delay == 2) = true := by decide +kernel

/-- spec/96 section 7: STR r0, [SP, #4]. -/
theorem test_tStrSp : endsIn (run 0x9001 (machine 0x30#32 0x100#32 [(.r0, 0x5A5A5A5A#32), (.r13usr, 0x3000#32)] [(0x2000#32, 0x44332211#32), (0x2004#32, 0x88776655#32), (0x2008#32, 0xCCBBAA99#32), (0x108#32, 0xFEEDC0DE#32)])) (fun t =>
    t.mem.read32 0x3004#32 == 0x5A5A5A5A#32 && !Psr.n t.cpsr && !Psr.z t.cpsr && !Psr.c t.cpsr && !Psr.v t.cpsr && t.delay == 2) = true := by decide +kernel

/-- spec/96 section 7: PUSH (r0, r1, LR). -/
theorem test_tPush : endsIn (run 0xB503 (machine 0x30#32 0x100#32 [(.r0, 0x1#32), (.r1, 0x2#32), (.r13usr, 0x3000#32), (.r14usr, 0x99#32)] [(0x2000#32, 0x44332211#32), (0x2004#32, 0x88776655#32), (0x2008#32, 0xCCBBAA99#32), (0x108#32, 0xFEEDC0DE#32)])) (fun t =>
    t.mem.read32 0x2FF4#32 == 0x1#32 && t.mem.read32 0x2FF8#32 == 0x2#32 && t.mem.read32 0x2FFC#32 == 0x99#32 && t.reg .r13usr == 0x2FF4#32 && !Psr.n t.cpsr && !Psr.z t.cpsr && !Psr.c t.cpsr && !Psr.v t.cpsr && t.delay == 2) = true := by decide +kernel

/-- spec/96 section 7: POP (r0, PC). -/
theorem test_tPop : endsIn (run 0xBD01 (machine 0x30#32 0x100#32 [(.r13usr, 0x2000#32)] [(0x2000#32, 0x7#32), (0x2004#32, 0x301#32)])) (fun t =>
    t.reg .r0 == 0x7#32 && t.pc == 0x300#32 && t.reg .r13usr == 0x2008#32 && t.cpsr == 0x30#32 && !Psr.n t.cpsr && !Psr.z t.cpsr && !Psr.c t.cpsr && !Psr.v t.cpsr && t.delay == 4) = true := by decide +kernel

/-- spec/96 section 7: STMIA r0!, (r0, r1). -/
theorem test_tStmia : endsIn (run 0xC003 (machine 0x30#32 0x100#32 [(.r0, 0x3000#32), (.r1, 0x5#32)] [(0x2000#32, 0x44332211#32), (0x2004#32, 0x88776655#32), (0x2008#32, 0xCCBBAA99#32), (0x108#32, 0xFEEDC0DE#32)])) (fun t =>
    t.mem.read32 0x3000#32 == 0x3000#32 && t.mem.read32 0x3004#32 == 0x5#32 && t.reg .r0 == 0x3008#32 && !Psr.n t.cpsr && !Psr.z t.cpsr && !Psr.c t.cpsr && !Psr.v t.cpsr && t.delay == 2) = true := by decide +kernel

/-- spec/96 section 7: LDMIA r1!, (r0, r1). -/
theorem test_tLdmia : endsIn (run 0xC903 (machine 0x30#32 0x100#32 [(.r1, 0x2000#32)] [(0x2000#32, 0x44332211#32), (0x2004#32, 0x88776655#32), (0x2008#32, 0xCCBBAA99#32), (0x108#32, 0xFEEDC0DE#32)])) (fun t =>
    t.reg .r0 == 0x44332211#32 && t.reg .r1 == 0x88776655#32 && !Psr.n t.cpsr && !Psr.z t.cpsr && !Psr.c t.cpsr && !Psr.v t.cpsr && t.delay == 3) = true := by decide +kernel

/-- spec/96 section 7: BGT +8 with N = V = 1, Z = 0. -/
theorem test_tBgt : endsIn (run 0xDC02 (machine 0x90000030#32 0x100#32 [] [(0x2000#32, 0x44332211#32), (0x2004#32, 0x88776655#32), (0x2008#32, 0xCCBBAA99#32), (0x108#32, 0xFEEDC0DE#32)])) (fun t =>
    t.pc == 0x108#32 && Psr.n t.cpsr && !Psr.z t.cpsr && !Psr.c t.cpsr && Psr.v t.cpsr && t.delay == 2) = true := by decide +kernel

/-- spec/96 section 7: B -4 (to itself). -/
theorem test_tB : endsIn (run 0xE7FE (machine 0x30#32 0x100#32 [] [(0x2000#32, 0x44332211#32), (0x2004#32, 0x88776655#32), (0x2008#32, 0xCCBBAA99#32), (0x108#32, 0xFEEDC0DE#32)])) (fun t =>
    t.pc == 0x100#32 && !Psr.n t.cpsr && !Psr.z t.cpsr && !Psr.c t.cpsr && !Psr.v t.cpsr && t.delay == 2) = true := by decide +kernel

/-- spec/96 section 7: BL second half alone. -/
theorem test_tBlLow : endsIn (run 0xF804 (machine 0x30#32 0x100#32 [(.r14usr, 0x1000#32)] [(0x2000#32, 0x44332211#32), (0x2004#32, 0x88776655#32), (0x2008#32, 0xCCBBAA99#32), (0x108#32, 0xFEEDC0DE#32)])) (fun t =>
    t.pc == 0x1008#32 && t.reg .r14usr == 0x103#32 && !Psr.n t.cpsr && !Psr.z t.cpsr && !Psr.c t.cpsr && !Psr.v t.cpsr && t.delay == 3) = true := by decide +kernel

/-- spec/96 section 7: SWI 0xAB. -/
theorem test_tSwi : endsIn (run 0xDFAB (machine 0x2000003F#32 0x100#32 [] [(0x2000#32, 0x44332211#32), (0x2004#32, 0x88776655#32), (0x2008#32, 0xCCBBAA99#32), (0x108#32, 0xFEEDC0DE#32)])) (fun t =>
    t.spsrSvc == 0x2000003F#32 && t.cpsr == 0x20000093#32 && t.reg .r14svc == 0x102#32 && t.pc == 0x8#32 && !Psr.n t.cpsr && !Psr.z t.cpsr && Psr.c t.cpsr && !Psr.v t.cpsr && t.delay == 2) = true := by decide +kernel

/-! ## Steps, from the rules of files 40, 60 and 70 -/

/-- R80, R83, R89: from reset with `MOVS r0, #5` in memory, the first cycle stages it and the second runs it; the
zeros after it are an EQ word that Z = 0 passes over, so `pc` ends at 8. -/
theorem test_two_cycles : endsIn (step (State.reset.setMem (State.reset.mem.write32 0#32 0xE3B00005#32))) (fun t =>
    t.pending == some (.arm 0x3B0#12) && t.pc == 0#32 &&
      endsIn (step t) (fun u => u.reg .r0 == 5#32 && u.pc == 8#32 && u.pending.isNone)) = true := by decide +kernel

/-- R84: a word whose condition fails is passed over by the Decoding cycle. -/
theorem test_failed_condition : endsIn (step (State.reset.setMem (State.reset.mem.write32 0#32 0x03A00005#32))) (fun t =>
    t.pending.isNone && t.pc == 4#32 && t.reg .r0 == 0#32) = true := by decide +kernel

/-- The host's two names: the word placed runs in the very next step, an ARM word and a Thumb halfword. -/
theorem test_with_fetch_word :
    endsIn (step (State.reset.withFetchWord 32 0xE3A00005)) (fun t => t.reg .r0 == 5#32 && t.pc == 8#32) = true ∧
    endsIn (step (State.reset.withFetchWord 16 0x2005)) (fun t => t.reg .r0 == 5#32 && t.pc == 2#32) = true := by
  decide +kernel

/-! ## Witnesses: each meets the hypotheses of the obligation it is named after, at the ends of their ranges, and shows that
the case it stands for completes, or stops where the obligation says that it stops -/

/-- ARM state, Supervisor, C set, N set, interrupts masked; `pc` = 0x1000. -/
def armState : State := (machine 0xA00000D3#32 0x1000#32
  [(.r0, 0x80000001#32), (.r1, 0x2002#32), (.r2, 0x21#32), (.r3, 0xFFFFFFFF#32), (.r13svc, 0x3000#32), (.r14svc, 0x4003#32)]
  [(0x2000#32, 0x44332211#32), (0x2004#32, 0x88776655#32), (0x3000#32, 0x1111#32), (0x3004#32, 0x2223#32)]).setSpsrCur 0x60000030#32

/-- The same in User mode. -/
def userState : State := { armState with cpsr := 0xA0000010#32, bankMode := .usr }

/-- Thumb state, User. -/
def thumbState : State := machine 0x20000030#32 0x1000#32
  [(.r0, 0x80000001#32), (.r1, 0x2002#32), (.r2, 1#32), (.r3, 0xFFFFFFFF#32), (.r13usr, 0x3000#32), (.r14usr, 0x4003#32)]
  [(0x2000#32, 0x44332211#32), (0x2004#32, 0x88776655#32), (0x3000#32, 0x1111#32), (0x3004#32, 0x2223#32)]

/-- A state with its parameters changed. -/
def withParams (s : State) (f : Config.Params → Config.Params) : State := { s with params := f s.params }

theorem witness_ResetMeetsInvariant :
    (BootConvention.standard.resetPc &&& (if Psr.t BootConvention.standard.resetCpsr then 1#32 else 3#32)) = 0#32 ∧
    State.reset.inv :=
  ⟨by decide +kernel, by decide +kernel, by decide +kernel, by decide +kernel, trivial⟩

theorem witness_BankMap : (5#4 ≠ 15#4) ∧ (armState.setX 13#4 7#32).x 13#4 = 7#32 ∧ (armState.setX 14#4 7#32).reg .r14svc = 7#32 ∧
    (armState.setX 15#4 0x203#32).pc = 0x200#32 ∧ (thumbState.setX 15#4 0x203#32).pc = 0x202#32 := by decide +kernel

theorem witness_SpsrAccess : (userState.bankMode = .usr ∧ (userState.setSpsrCur 7#32) = userState) ∧
    (armState.bankMode = .svc ∧ (armState.setSpsrCur 7#32).spsrSvc = 7#32) ∧
    ({ armState with bankMode := .sys }.spsrCur = armState.cpsr) ∧
    ({ armState with bankMode := .fiq }.setSpsrCur 7#32).spsrFiq = 7#32 ∧
    ({ armState with bankMode := .abt }.setSpsrCur 7#32).spsrAbt = 7#32 ∧
    ({ armState with bankMode := .irq }.setSpsrCur 7#32).spsrIrq = 7#32 ∧
    ({ armState with bankMode := .und }.setSpsrCur 7#32).spsrUnd = 7#32 ∧
    (Mode.hasSpsr .irq = true ∧ Mode.irq ≠ armState.bankMode) := by decide +kernel

theorem witness_SetMode : Psr.mode armState.cpsr = Mode.svc.bits ∧
    (∀ m ∈ [Mode.usr, .fiq, .irq, .svc, .abt, .und, .sys], Psr.mode ({ armState with cpsr := 0#32 } : State).cpsr ≠ m.bits) := by
  decide +kernel

theorem witness_ShiftImmediate : (0#5).toNat = 0 ∧ 1 ≤ (1#5).toNat ∧ 1 ≤ (31#5).toNat ∧
    shift .lsr 0x80000001#32 0 true .imm = ⟨0#32, true⟩ ∧ shift .ror 0x80000001#32 0 false .imm = ⟨0x40000000#32, true⟩ ∧
    shift .lsl 0x80000001#32 1 false .imm = ⟨2#32, true⟩ ∧ shift .asr 0x80000001#32 31 false .imm = ⟨0xFFFFFFFF#32, false⟩ := by
  decide +kernel

theorem witness_ShiftRegister : (0#8).toNat = 0 ∧ (1#8).toNat = 1 ∧ (31#8).toNat = 31 ∧ (32#8).toNat = 32 ∧ (33#8).toNat = 33 ∧
    64 % 32 = 0 ∧ 255 % 32 ≠ 0 ∧
    shift .lsl 0x80000001#32 0 true .reg = ⟨0x80000001#32, true⟩ ∧ shift .lsl 0x80000001#32 31 false .reg = ⟨0x80000000#32, false⟩ ∧
    shift .lsr 0x80000001#32 1 false .reg = ⟨0x40000000#32, true⟩ ∧ shift .lsl 0x80000001#32 32 false .reg = ⟨0#32, true⟩ ∧
    shift .lsr 0x80000001#32 33 true .reg = ⟨0#32, false⟩ ∧ shift .asr 0x80000001#32 255 false .reg = ⟨0xFFFFFFFF#32, true⟩ ∧
    shift .ror 0x80000001#32 64 false .reg = ⟨0x80000001#32, true⟩ ∧ shift .ror 0x80000001#32 33 false .reg = ⟨0xC0000000#32, true⟩ := by
  decide +kernel

theorem witness_ImmediateOperand : immOperand 0#4 0xFF#8 true = ⟨0xFF#32, true⟩ ∧ (1#4 ≠ 0#4) ∧
    immOperand 1#4 2#8 false = ⟨0x80000000#32, true⟩ ∧ immOperand 15#4 0xFF#8 true = ⟨0x3FC#32, false⟩ := by decide +kernel

theorem witness_DataProcessingWritesRegister : armState.thumb = false ∧ AluOp.writesRd .add = true ∧ (0#4 ≠ 15#4) ∧ (14#4 ≠ 15#4) ∧
    endsIn (exec (dpInstr .add .al true 15#4 0#4 (.shiftReg 2#4 .lsl 15#4)) armState) (fun t => t.reg .r0 == 0x100C#32) = true ∧
    endsIn (exec (dpInstr .mov .al false 0#4 14#4 (.imm 0#4 7#8)) armState) (fun t => t.reg .r14svc == 7#32 && t.cpsr == armState.cpsr) = true ∧
    endsIn (exec (dpInstr .sbc .al true 0#4 0#4 (.shiftImm 0#5 .lsl 3#4)) armState) (fun t => t.reg .r0 == 0x80000002#32 && !Psr.c t.cpsr) = true := by
  decide +kernel

theorem witness_DataProcessingCompares : armState.thumb = false ∧ AluOp.writesRd .cmp = false ∧
    endsIn (exec (dpInstr .cmp .al true 0#4 15#4 (.shiftImm 0#5 .lsl 0#4)) armState) (fun t => t.pc == 0x1004#32 && Psr.z t.cpsr && Psr.c t.cpsr) = true := by
  decide +kernel

theorem witness_DataProcessingBranches : armState.thumb = false ∧ AluOp.writesRd .mov = true ∧
    endsIn (exec (dpInstr .mov .al false 0#4 15#4 (.shiftImm 0#5 .lsl 1#4)) armState) (fun t => t.pc == 0x2000#32 && t.delay == 2) = true := by
  decide +kernel

/-- In SVC the SPSR of User mode in Thumb state is restored; in User mode the CPSR stays; a SPSR with no mode stops under STRICT
and goes on without it. -/
theorem witness_DataProcessingReturns :
    let lax := withParams (armState.setSpsrCur 0#32) fun p => { p with strict := false }
    let i := dpInstr .mov .al true 0#4 15#4 (.shiftImm 0#5 .lsl 14#4)
    armState.thumb = false ∧ AluOp.writesRd .mov = true ∧ Mode.ofBits (Psr.mode 0x60000030#32) ≠ none ∧
      endsIn (exec i armState) (fun t => t.cpsr == 0x60000030#32 && t.bankMode == .usr && t.pc == 0x4002#32) = true ∧
      endsIn (exec i userState) (fun t => t.cpsr &&& 0x0FFFFFFF#32 == 0x10#32 && t.pc == 0#32 && Psr.z t.cpsr) = true ∧
      Mode.ofBits (Psr.mode 0#32) = none ∧ armState.params.strict = true ∧
      faultsWith (exec i (armState.setSpsrCur 0#32)) (.invalidMode 0#5) = true ∧ lax.params.strict = false ∧
      endsIn (exec i lax) (fun t => t.cpsr == 0#32 && t.bankMode == .svc && t.pc == 0x4000#32) = true := by decide +kernel

theorem witness_MultiplyShort : armState.thumb = false ∧
    endsIn (exec (.mul .al true 0#4 0#4 3#4 2#4) armState) (fun t => t.reg .r0 == 0xFFFFFFDF#32 && Psr.n t.cpsr && !Psr.c t.cpsr) = true ∧
    endsIn (exec (.mla .al false 15#4 3#4 3#4 2#4) armState) (fun t => t.pc == 0xFFFFFFDC#32 && t.cpsr == armState.cpsr) = true := by
  decide +kernel

/-- -1 × 0x21, signed and unsigned, each with and without the accumulator 0x80000001:0xFFFFFFFF, and RdHi = RdLo. -/
theorem witness_MultiplyLong : armState.thumb = false ∧
    endsIn (exec (.umull .al false 5#4 4#4 3#4 2#4) armState) (fun t => t.reg .r5 == 0x20#32 && t.reg .r4 == 0xFFFFFFDF#32) = true ∧
    endsIn (exec (.smull .al true 5#4 4#4 3#4 2#4) armState) (fun t => t.reg .r5 == 0xFFFFFFFF#32 && Psr.n t.cpsr) = true ∧
    endsIn (exec (.umlal .al false 0#4 3#4 3#4 2#4) armState) (fun t => t.reg .r0 == 0x80000022#32 && t.reg .r3 == 0xFFFFFFDE#32) = true ∧
    endsIn (exec (.smlal .al false 0#4 3#4 3#4 2#4) armState) (fun t => t.reg .r0 == 0x80000001#32 && t.reg .r3 == 0xFFFFFFDE#32) = true ∧
    endsIn (exec (.umull .al false 5#4 5#4 3#4 2#4) armState) (fun t => t.reg .r5 == 0x20#32) = true := by decide +kernel

theorem witness_TransferAddressing : armState.thumb = false ∧
    (Offset.imm 0xFFF#12).addressed armState true false true 1#4 = ⟨0x1003#32, true, 0x1003#32⟩ ∧
    (HalfOffset.imm 0xF#4 0xF#4).addressed armState false true false 15#4 = ⟨0x1008#32, true, 0x1107#32⟩ := by decide +kernel

theorem witness_ArmLoads : armState.thumb = false ∧
    endsIn (exec (transferInstr true false (.imm 4#12) .al true true true 1#4 0#4) armState) (fun t => t.reg .r0 == 0x66558877#32 && t.reg .r1 == 0x2006#32) = true ∧
    endsIn (exec (transferInstr true true (.imm 0#12) .al false true true 1#4 1#4) armState) (fun t => t.reg .r1 == 0x33#32) = true ∧
    endsIn (exec (transferInstr true false (.reg 0#5 .lsl 2#4) .al false false false 13#4 15#4) armState) (fun t => t.pc == 0x1110#32 && t.reg .r13svc == 0x2FDF#32) = true := by
  decide +kernel

theorem witness_ArmStores : armState.thumb = false ∧ armState.mem.wf ∧
    endsIn (exec (transferInstr false false (.imm 0#12) .al true true false 1#4 15#4) armState) (fun t => t.mem.read32 0x2000#32 == 0x100C#32) = true ∧
    endsIn (exec (transferInstr false true (.imm 1#12) .al false true true 1#4 0#4) armState) (fun t => t.mem.read32 0x2000#32 == 0x44012211#32 && t.reg .r1 == 0x2003#32) = true := by
  decide +kernel

/-- At an even address, at an odd address, and at an odd address under `MISALIGNED_HALFWORD = refuse`. -/
theorem witness_ArmHalfLoads :
    let o := HalfOffset.imm 0#4 1#4
    let strict := withParams armState fun p => { p with misalignedHalfword := .refuse }
    armState.thumb = false ∧ halfLoadInstr .half o .al true false false 1#4 0#4 = some (.ldrhImm .al true false false 1#4 0#4 0#4 1#4) ∧
      LoadKind.refuses .half armState 0x2001#32 = false ∧ LoadKind.refuses .half strict 0x2001#32 = true ∧
      LoadKind.refuses .signedHalf strict 0x2002#32 = false ∧ LoadKind.refuses .signedByte strict 0x2001#32 = false ∧
      endsIn (exec (.ldrhImm .al true false false 1#4 0#4 0#4 1#4) armState) (fun t => t.reg .r0 == 0x11000022#32) = true ∧
      endsIn (exec (.ldrshImm .al true true false 1#4 0#4 0#4 4#4) strict) (fun t => t.reg .r0 == 0xFFFF8877#32) = true ∧
      refusesWith (exec (.ldrhImm .al true false false 1#4 0#4 0#4 1#4) strict) .misalignedHalfword = true ∧
      refusesWith (exec (.ldrshImm .al true false false 1#4 0#4 0#4 1#4) strict) .misalignedHalfword = true := by decide +kernel

/-- An environment that writes one byte inside the next port call. -/
def reactingState : State := { armState with reactions := [{ writes := [(0x2004#32, 0x99#8)], inputs := none }] }

/-- `Untouched` as a computation. -/
theorem untouched_iff (s : State) (n : Nat) (a : Word) :
    s.Untouched n a ↔ ((s.reactions.take n).all fun r => r.writes.all fun c => c.1 != a) = true := by
  simp [State.Untouched, List.all_eq_true]

/-- The environment writes a byte inside the store's port call: the bytes stored read back, that byte is its own, every other byte is kept. -/
theorem witness_Untouched :
    (∀ k < Size.bytes .word, reactingState.Untouched 1 (Size.storeAddress .word 0x2002#32 + BitVec.ofNat 32 k)) ∧
      reactingState.Untouched 1 0x2005#32 ∧ ¬ reactingState.Untouched 1 0x2004#32 ∧ reactingState.Untouched 0 0x2004#32 ∧
      endsIn (exec (.strImmPre .al true false 1#4 0#4 0#12) reactingState) (fun t => t.mem.read32 0x2000#32 == 0x80000001#32 &&
        t.mem.read32 0x2004#32 == 0x88776699#32 && t.reactions.isEmpty) = true := by
  simp only [untouched_iff]
  decide +kernel

/-- The second word of a block is read once the environment has reacted to the first read. -/
theorem witness_Reacted :
    (reactingState.environment.reacted 0).mem.read32 0x2004#32 = 0x88776655#32 ∧ (reactingState.environment.reacted 1).mem.read32 0x2004#32 = 0x88776699#32 ∧
      endsIn (exec (.ldm .al false true false false 1#4 0x00C0#16) reactingState) (fun t => t.reg .r6 == 0x44332211#32 && t.reg .r7 == 0x88776699#32) = true := by
  decide +kernel

theorem witness_ArmHalfStores : armState.thumb = false ∧ armState.mem.wf ∧
    endsIn (exec (halfStoreInstr (.reg 2#4) .al true false true 1#4 3#4) armState) (fun t => t.mem.read32 0x1FE0#32 == 0xFFFF#32 && t.reg .r1 == 0x1FE1#32) = true := by
  decide +kernel

theorem witness_Swap : armState.thumb = false ∧ armState.mem.wf ∧
    endsIn (exec (.swp .al 1#4 3#4 3#4) armState) (fun t => t.reg .r3 == 0x22114433#32 && t.mem.read32 0x2000#32 == 0xFFFFFFFF#32) = true ∧
    endsIn (exec (.swpb .al 1#4 0#4 3#4) armState) (fun t => t.reg .r0 == 0x33#32 && t.mem.read32 0x2000#32 == 0x44FF2211#32) = true := by
  decide +kernel

/-- STM with the base first, and not first; PUSH; Thumb STMIA; a word at the end of the block and the word after it. -/
theorem witness_BlockStores :
    blockStoreOf (.stm .al false true false true 1#4 0x8002#16) = some ⟨false, true, false, true, 1#4, 0x8002#16⟩ ∧
      blockStoreOf (.tPush true 0#8) = some ⟨true, false, false, true, 13#4, 0x4000#16⟩ ∧ Instr.wf (.tStmia 7#4 0xFF#8) = true ∧
      armState.thumb = Instr.isThumb (.stm .al false true false true 1#4 0x8002#16) ∧ thumbState.thumb = Instr.isThumb (.tPush true 0#8) ∧
      armState.mem.wf ∧ thumbState.mem.wf ∧
      endsIn (exec (.stm .al false true false true 1#4 0x8003#16) armState) (fun t =>
        t.mem.read32 0x2000#32 == 0x80000001#32 && t.mem.read32 0x2004#32 == 0x200E#32 && t.mem.read32 0x2008#32 == 0x100C#32 &&
          t.mem.read8 0x1FFF#32 == 0#8 && t.mem.read8 0x200C#32 == 0#8 && t.reg .r1 == 0x200E#32) = true ∧
      endsIn (exec (.tPush true 1#8) thumbState) (fun t => t.mem.read32 0x2FF8#32 == 0x80000001#32 && t.mem.read32 0x2FFC#32 == 0x4003#32) = true ∧
      endsIn (exec (.tStmia 1#4 0#8) thumbState) (fun t => t.reg .r1 == 0x2042#32) = true := by decide +kernel

theorem witness_BlockLoads :
    let f : BlockFields := ⟨false, true, true, false, 13#4, 0x6000#16⟩
    blockLoadOf (.ldm .al false true true false 13#4 0x6000#16) = some f ∧ ¬ (f.sBit = true ∧ 15#4 ∈ f.regs armState) ∧
      blockLoadOf (.tPop true 0#8) = some ⟨false, true, false, true, 13#4, 0x8000#16⟩ ∧ Instr.wf (.tLdmia 7#4 0xFF#8) = true ∧
      armState.thumb = Instr.isThumb (.ldm .al false true true false 13#4 0x6000#16) ∧ thumbState.thumb = Instr.isThumb (.tPop true 0#8) ∧
      endsIn (exec (.ldm .al false true true false 13#4 0x6000#16) armState) (fun t =>
        t.reg .r13usr == 0x1111#32 && t.reg .r14usr == 0x2223#32 && t.reg .r13svc == 0x3000#32) = true ∧
      endsIn (exec (.ldm .al false true false true 13#4 0x8001#16) armState) (fun t => t.reg .r0 == 0x1111#32 && t.pc == 0x2220#32 && t.reg .r13svc == 0x3008#32) = true ∧
      endsIn (exec (.tPop true 1#8) thumbState) (fun t => t.reg .r0 == 0x1111#32 && t.pc == 0x2222#32 && t.thumb) = true ∧
      endsIn (exec (.tLdmia 1#4 2#8) thumbState) (fun t => t.reg .r1 == 0x44332211#32) = true := by decide +kernel

theorem witness_BlockLoadReturns :
    let f : BlockFields := ⟨false, true, true, true, 13#4, 0x8001#16⟩
    let i := Instr.ldm .al false true true true 13#4 0x8001#16
    let lax := withParams (armState.setSpsrCur 0#32) fun p => { p with strict := false }
    armState.thumb = false ∧ 15#4 ∈ f.regs armState ∧ Mode.ofBits (Psr.mode 0x60000030#32) ≠ none ∧
      endsIn (exec i armState) (fun t => t.cpsr == 0x60000030#32 && t.bankMode == .usr && t.pc == 0x2222#32 && t.reg .r13svc == 0x3008#32 && t.reg .r0 == 0x1111#32) = true ∧
      Mode.ofBits (Psr.mode 0#32) = none ∧ armState.params.strict = true ∧
      faultsWith (exec i (armState.setSpsrCur 0#32)) (.invalidMode 0#5) = true ∧ lax.params.strict = false ∧
      endsIn (exec i lax) (fun t => t.cpsr == 0#32 && t.bankMode == .svc && t.pc == 0x2220#32) = true ∧
      15#4 ∈ (⟨false, true, true, true, 0#4, 0#16⟩ : BlockFields).regs armState := by decide +kernel

/-- The most negative and the most positive offset, in both sets. -/
theorem witness_Branches : armState.thumb = false ∧ armState.pcAligned ∧ thumbState.thumb = true ∧ thumbState.pcAligned ∧
    endsIn (exec (.b .al 0x800000#24) armState) (fun t => t.pc == 0xFE001008#32) = true ∧
    endsIn (exec (.bl .al 0x7FFFFF#24) armState) (fun t => t.pc == 0x2001004#32 && t.reg .r14svc == 0x1004#32) = true ∧
    endsIn (exec (.tB 0x400#11) thumbState) (fun t => t.pc == 0x804#32) = true ∧
    endsIn (exec (.tB 0x3FF#11) thumbState) (fun t => t.pc == 0x1802#32) = true := by decide +kernel

theorem witness_BranchExchange : armState.thumb = Instr.isThumb (.bx .al 14#4) ∧ thumbState.thumb = Instr.isThumb (.tBx false 15#4) ∧
    endsIn (exec (.bx .al 14#4) armState) (fun t => t.thumb && t.pc == 0x4002#32) = true ∧
    endsIn (exec (.tBx false 15#4) thumbState) (fun t => !t.thumb && t.pc == 0x1004#32) = true := by decide +kernel

theorem witness_ThumbConditionalBranches : thumbBranch .cs 0x80#8 = some (.tBcs 0x80#8) ∧ thumbBranch .le 0x7F#8 = some (.tBle 0x7F#8) ∧
    thumbState.thumb = true ∧ thumbState.pcAligned ∧ conditionPassed .cs thumbState.cpsr = true ∧ conditionPassed .le thumbState.cpsr = false ∧
    endsIn (exec (.tBcs 0x80#8) thumbState) (fun t => t.pc == 0xF04#32 && t.delay == 2) = true ∧
    endsIn (exec (.tBle 0x7F#8) thumbState) (fun t => t.pc == 0x1002#32 && t.delay == 0) = true := by decide +kernel

theorem witness_ThumbBranchLinkHalves : thumbState.thumb = true ∧
    endsIn (exec (.tBlHigh 0x400#11) thumbState) (fun t => t.reg .r14usr == 0xFFC01004#32 && t.pc == 0x1002#32) = true ∧
    endsIn (exec (.tBlLow 0x7FF#11) thumbState) (fun t => t.pc == 0x5000#32 && t.reg .r14usr == 0x1003#32) = true := by
  decide +kernel

theorem witness_ThumbBranchLinkPair : thumbState.thumb = true ∧ thumbState.pcAligned ∧
    endsIn (exec (.tBlHigh 0x7FF#11) thumbState) (fun t => endsIn (exec (.tBlLow 0x7FE#11) t) fun u =>
      u.pc == 0x1000#32 && u.reg .r14usr == 0x1005#32) = true := by decide +kernel

theorem witness_SoftwareInterrupts : isSwi (.swi .al 0#24) = true ∧ isSwi (.tSwi 0xFF#8) = true ∧
    armState.thumb = Instr.isThumb (.swi .al 0#24) ∧ thumbState.thumb = Instr.isThumb (.tSwi 0xFF#8) ∧
    endsIn (exec (.swi .al 0#24) armState) (fun t => t.reg .r14svc == 0x1004#32 && t.spsrSvc == 0xA00000D3#32 && t.pc == 8#32) = true ∧
    endsIn (exec (.tSwi 0xFF#8) thumbState) (fun t => t.reg .r14svc == 0x1002#32 && t.cpsr == 0x20000093#32 && t.bankMode == .svc) = true := by
  decide +kernel

theorem witness_StatusRead : armState.thumb = false ∧
    endsIn (exec (.mrs .al true 0#4) armState) (fun t => t.reg .r0 == 0x60000030#32) = true ∧
    endsIn (exec (.mrs .al true 0#4) userState) (fun t => t.reg .r0 == 0xA0000010#32) = true ∧
    endsIn (exec (.mrs .al false 15#4) armState) (fun t => t.pc == 0xA00000D0#32) = true := by decide +kernel

/-- Every byte named with T set in the operand; an invalid mode number, under STRICT and not; User mode. -/
theorem witness_StatusWrite :
    let lax := withParams armState fun p => { p with strict := false }
    armState.thumb = false ∧ msrCpsrOf (.msrCpsrReg .al 15#4 3#4) armState = some (15#4, 0xFFFFFFFF#32) ∧
      msrCpsrOf (.msrCpsrImm .al 1#4 0#4 0#8) armState = some (1#4, 0#32) ∧ armState.writesControl 1#4 = true ∧
      userState.writesControl 15#4 = false ∧
      endsIn (exec (.msrCpsrReg .al 15#4 3#4) armState) (fun t => t.cpsr == 0xFFFFFFDF#32 && t.bankMode == .sys) = true ∧
      endsIn (exec (.msrCpsrReg .al 15#4 3#4) userState) (fun t => t.cpsr == 0xFFFFFF10#32 && t.bankMode == .usr) = true ∧
      Mode.ofBits (Psr.mode (msrWord armState.cpsr 0#32 1#4 true false)) = none ∧ armState.params.strict = true ∧
      faultsWith (exec (.msrCpsrImm .al 1#4 0#4 0#8) armState) (.invalidMode 0#5) = true ∧ lax.params.strict = false ∧
      endsIn (exec (.msrCpsrImm .al 1#4 0#4 0#8) lax) (fun t => t.cpsr == 0xA0000000#32 && t.bankMode == .svc) = true := by
  decide +kernel

theorem witness_SavedStatusWrite : armState.thumb = false ∧
    msrSpsrOf (.msrSpsrReg .al 15#4 3#4) armState = some (15#4, 0xFFFFFFFF#32) ∧
    msrSpsrOf (.msrSpsrImm .al 8#4 4#4 0xA5#8) armState = some (8#4, 0xA5000000#32) ∧
    armState.bankMode.hasSpsr = true ∧ userState.bankMode.hasSpsr = false ∧
    endsIn (exec (.msrSpsrReg .al 15#4 3#4) armState) (fun t => t.spsrSvc == 0xFFFFFFFF#32) = true ∧
    endsIn (exec (.msrSpsrImm .al 8#4 4#4 0xA5#8) armState) (fun t => t.spsrSvc == 0xA5000030#32) = true ∧
    endsIn (exec (.msrSpsrReg .al 15#4 3#4) userState) (fun t => t.spsrSvc == 0x60000030#32 && t.cpsr == userState.cpsr) = true := by
  decide +kernel

theorem witness_UnimplementedEncodings :
    let loud := fun s => withParams s fun p => { p with undefinedPolicy := .fault }
    isUnimplemented (.undefMulSpace .al) = true ∧ isUnimplemented .tUndefE8 = true ∧
      armState.thumb = Instr.isThumb (.undefMulSpace .al) ∧ thumbState.thumb = Instr.isThumb .tUndefE8 ∧
      (loud armState).params.undefinedPolicy = .fault ∧ faultsWith (exec (.mrc .al 0#3 0#4 15#4 15#4 0#3 0#4) (loud armState)) .unimplemented = true ∧
      faultsWith (exec .tUndefE8 (loud thumbState)) .unimplemented = true ∧ armState.params.undefinedPolicy = .nop ∧
      endsIn (exec (.mrc .al 0#3 0#4 15#4 15#4 0#3 0#4) armState) (fun t => t.pc == 0x1004#32 && t.cpsr == armState.cpsr) = true ∧
      endsIn (exec .tUndefE8 thumbState) (fun t => t.pc == 0x1002#32) = true := by decide +kernel

theorem witness_ThumbOperations :
    thumbAluOf (.tSbc 0#4 3#4) thumbState = some (.sbc, 3#4, 0xFFFFFFFF#32, ⟨0x80000001#32, true⟩) ∧ Instr.wf (.tSbc 0#4 3#4) = true ∧
      thumbAluOf (.tCmpHi 15#4 14#4) thumbState = some (.cmp, 14#4, 0x4003#32, ⟨0x1004#32, true⟩) ∧ AluOp.writesRd .sbc = true ∧
      thumbState.thumb = true ∧ endsIn (exec (.tSbc 0#4 3#4) thumbState) (fun t => t.reg .r3 == 0x7FFFFFFE#32 && Psr.c t.cpsr) = true ∧
      endsIn (exec (.tCmpHi 15#4 14#4) thumbState) (fun t => t.pc == 0x1002#32 && Psr.c t.cpsr && !Psr.z t.cpsr) = true ∧
      endsIn (exec (.tLslReg 2#4 0#4) thumbState) (fun t => t.reg .r0 == 2#32 && Psr.c t.cpsr && t.delay == 1) = true := by decide +kernel

theorem witness_ThumbMultiply : Instr.wf (.tMul 2#4 0#4) = true ∧ thumbState.thumb = true ∧
    endsIn (exec (.tMul 2#4 0#4) thumbState) (fun t => t.reg .r0 == 0x80000001#32 && Psr.n t.cpsr && !Psr.c t.cpsr) = true := by
  decide +kernel

theorem witness_ThumbMoves : thumbMoveOf (.tMovHi 14#4 15#4) thumbState = some (15#4, 0x4003#32) ∧ Instr.wf (.tMovHi 14#4 15#4) = true ∧
    thumbMoveOf (.tDecSp 127#7) thumbState = some (13#4, 0x2E04#32) ∧ thumbState.thumb = true ∧ (13#4 ≠ 15#4) ∧
    endsIn (exec (.tMovHi 14#4 15#4) thumbState) (fun t => t.pc == 0x4002#32 && t.delay == 2) = true ∧
    endsIn (exec (.tDecSp 127#7) thumbState) (fun t => t.reg .r13usr == 0x2E04#32) = true := by decide +kernel

theorem witness_ThumbLoads :
    let strict := withParams thumbState fun p => { p with misalignedHalfword := .refuse }
    thumbLoadOf (.tLdshReg 2#4 1#4 0#4) thumbState = some (.signedHalf, 0#4, 0x2003#32) ∧ Instr.wf (.tLdshReg 2#4 1#4 0#4) = true ∧
      thumbState.thumb = true ∧ LoadKind.refuses .signedHalf thumbState 0x2003#32 = false ∧ LoadKind.refuses .signedHalf strict 0x2003#32 = true ∧
      endsIn (exec (.tLdshReg 2#4 1#4 0#4) thumbState) (fun t => t.reg .r0 == 0x44#32) = true ∧
      endsIn (exec (.tLdrSp 0#4 1#8) strict) (fun t => t.reg .r0 == 0x2223#32) = true ∧
      refusesWith (exec (.tLdshReg 2#4 1#4 0#4) strict) .misalignedHalfword = true := by decide +kernel

theorem witness_ThumbStores : thumbStoreOf (.tStrhReg 2#4 1#4 0#4) thumbState = some (.half, 0#4, 0x2003#32) ∧
    Instr.wf (.tStrhReg 2#4 1#4 0#4) = true ∧ thumbState.thumb = true ∧ thumbState.mem.wf ∧
    endsIn (exec (.tStrhReg 2#4 1#4 0#4) thumbState) (fun t => t.mem.read32 0x2000#32 == 0x00012211#32) = true := by decide +kernel

/-- A state with two enabled interrupts pending, I clear, and the master switch on or off. -/
def irqState (master : Bool) : State :=
  { thumbState with irqEnable := 0x8009, irqPending := 0x8008, irqMaster := master, halted := true }

theorem witness_InterruptCheck :
    Psr.i armState.cpsr = true ∧ ¬ (∃ i < thumbState.params.irqLines, thumbState.irqEnable.testBit i = true ∧ thumbState.irqPending.testBit i = true) ∧
      Psr.i (irqState false).cpsr = false ∧
      (∃ i < (irqState false).params.irqLines, (irqState false).irqEnable.testBit i = true ∧ (irqState false).irqPending.testBit i = true) ∧
      (irqState true).irqSource = some 3 ∧ (withParams (irqState true) fun p => { p with irqLines := 3 }).irqSource = none ∧
      (withParams (irqState true) fun p => { p with irqLines := 4 }).irqSource = some 3 ∧
      (irqState false).irqMaster = false ∧ (irqState true).irqMaster = true ∧ (irqState true).irqTaken = true ∧
      (irqState false).interruptCheck.halted = false ∧ (irqState false).interruptCheck.pc = 0x1000#32 ∧
      (irqState true).interruptCheck.reg .r14irq = 0x1004#32 ∧ (irqState true).interruptCheck.pc = 0x18#32 ∧
      (irqState true).interruptCheck.cpsr = 0x20000092#32 ∧ (irqState true).interruptCheck.spsrIrq = 0x20000030#32 := by
  decide +kernel

/-- The store of trace T2 (spec/97): `STRB r1, [r0]` staged at 0x100 in User mode with I = 0, and an environment that sets
`halted` inside that store's port call. -/
def haltState : State :=
  { (machine 0x00000010#32 0x100#32 [(.r0, 0x04000301#32)] []).withFetchWord 32 0xE5C01000 with
    irqEnable := 1, irqMaster := true,
    reactions := [{ writes := [], inputs := some { irqEnable := 1, irqPending := 0, irqMaster := true, halted := true, stopped := false } }] }

theorem witness_CycleOrder :
    ({ armState with dead := true, delay := 3 } : State).dead = true ∧
      endsIn (step { armState with dead := true, delay := 3 }) (fun t => t.delay == 3 && t.dead) = true ∧
      (armState.dead = false ∧ 0 < ({ armState with delay := 1 } : State).delay) ∧
      endsIn (step { armState with delay := 1 }) (fun t => t.delay == 0 && t.pending.isNone) = true ∧
      (armState.delay = 0 ∧ armState.pending = none) ∧
      endsIn (step { armState with halted := true }) (fun t => t.halted && t.pending.isNone) = true ∧
      endsIn (step { armState with stopped := true }) (fun t => t.stopped && t.pending.isNone) = true ∧
      endsIn (step armState) (fun t => t.outs.length == 1) = true ∧
      (haltState.dead = false ∧ haltState.delay = 0 ∧ haltState.pending = some (.arm 0x5C0#12) ∧
        Bucket.instr (.arm 0x5C0#12) haltState.opcode = some (.strbImmPre .al true false 0#4 1#4 0#12)) ∧
      endsIn (exec (.strbImmPre .al true false 0#4 1#4 0#12) { haltState with outs := [], pending := none })
        (fun u => u.halted && !u.irqWaiting) = true := by decide +kernel

/-- spec/97 trace T2, cycle 2: the store halts the core inside its own port call, so its cycle ends with no fetch. -/
theorem test_trace_t2_halting_store : endsIn (step haltState) (fun t =>
    t.halted && t.pending.isNone && t.pc == 0x104#32 && t.delay == 2 && t.reactions.isEmpty &&
      t.outs == [.write .byte 0x04000301#32 0#32]) = true := by decide +kernel

/-- R28, R333: an access whose port call raises an interrupt is seen by the same cycle's check (R340 row 7). -/
theorem test_store_raises_interrupt :
    let s := { haltState with mem := haltState.mem.write32 0x18#32 0xEAFFFFFE#32, reactions := [{ writes := [(0x200#32, 0xAB#8)], inputs := some { irqEnable := 1, irqPending := 1, irqMaster := true, halted := false, stopped := false } }] }
    endsIn (step s) (fun t => t.pc == 0x18#32 && t.cpsr == 0x92#32 && t.reg .r14irq == 0x108#32 && t.mem.read8 0x200#32 == 0xAB#8) = true := by
  decide +kernel

/-- R4: `ExtraCycles` by operands and outcome. STM and STR differ by their words; MUL differs by what Rs holds; a taken branch by its
outcome; anything else has the number of R343's table. -/
theorem test_extra_cycles :
    let cases : List Config.CycleCase :=
      [{ thumb := false, mask := 0x0E100000#32, pattern := 0x08000000#32, operands := [], statusMask := 0#32, statusPattern := 0#32, redirected := none, extra := 9 },
       { thumb := false, mask := 0x0FE000F0#32, pattern := 0x00000090#32, operands := [⟨1#4, 0xFFFFFFFF#32, 5#32⟩], statusMask := 0#32, statusPattern := 0#32, redirected := none, extra := 7 },
       { thumb := false, mask := 0x0E000000#32, pattern := 0x0A000000#32, operands := [], statusMask := 0#32, statusPattern := 0#32, redirected := some true, extra := 0 }]
    let s := fun w r1 => withParams ((machine 0xD3#32 0x100#32 [(.r1, r1)] []).withFetchWord 32 w) fun p => { p with cycleCases := cases }
    endsIn (step (s 0xE8810001 0x2000#32)) (fun t => t.delay == 9) = true ∧ endsIn (step (s 0xE5810000 0x2000#32)) (fun t => t.delay == 2) = true ∧
      endsIn (step (s 0xE0020190 5#32)) (fun t => t.delay == 7) = true ∧ endsIn (step (s 0xE0020190 6#32)) (fun t => t.delay == 1) = true ∧
      endsIn (step (s 0xEAFFFFFE 0#32)) (fun t => t.delay == 0) = true := by decide +kernel

theorem witness_FetchAndDecode : thumbState.pending = none ∧ thumbState.thumb = true ∧ armState.pending = none ∧ armState.thumb = false ∧
    (let s := armState.setMem (armState.mem.write32 0x1000#32 0xE3A00005#32)
     conditionPassed (Cond.ofBits ((s.mem.read32 0x1000#32).extractLsb' 28 4)) s.cpsr = true ∧ s.fetchDecode.pending = some (.arm 0x3A0#12)) ∧
    (let s := armState.setMem (armState.mem.write32 0x1000#32 0xF3A00005#32)
     conditionPassed (Cond.ofBits ((s.mem.read32 0x1000#32).extractLsb' 28 4)) s.cpsr = false ∧ s.fetchDecode.pc = 0x1004#32) ∧
    (thumbState.setMem (thumbState.mem.write16 0x1000#32 0x2005#16)).fetchDecode.pending = some (.thumb 0x080#10) := by
  decide +kernel

/-- What agrees and is fresh, for a staged ARM word and a staged Thumb halfword. -/
theorem staged_arm {s : State} {idx : BitVec 12} (h : s.pending = some (.arm idx))
    (agrees : s.thumb = false ∧ armIndex s.opcode = idx ∧ conditionPassed (condOf s.opcode) s.cpsr = true)
    (fresh : s.opcode = s.fetchArm.value) : s.stagedAgrees ∧ s.stagedFresh := by
  unfold State.stagedAgrees State.stagedFresh
  rw [h]
  exact ⟨agrees, fresh⟩

theorem staged_thumb {s : State} {idx : BitVec 10} (h : s.pending = some (.thumb idx))
    (agrees : s.thumb = true ∧ thumbIndex (s.opcode.setWidth 16) = idx ∧ (s.opcode.setWidth 16).setWidth 32 = s.opcode)
    (fresh : s.opcode = s.fetchThumb.value) : s.stagedAgrees ∧ s.stagedFresh := by
  unfold State.stagedAgrees State.stagedFresh
  rw [h]
  exact ⟨agrees, fresh⟩

/-- An ARM word staged. -/
theorem witness_StepRunsDecodedInstruction_arm :
    let s := State.reset.withFetchWord 32 0xE3A00005
    (s.stagedAgrees ∧ s.stagedFresh) ∧ s.dead = false ∧ s.delay = 0 ∧ s.pending = some (.arm 0x3A0#12) ∧ s.thumb = false ∧
      decode s.thumb [s.mem.read8 0#32, s.mem.read8 1#32, s.mem.read8 2#32, s.mem.read8 3#32] =
        .ok (.movImm .al false 0#4 0#4 0#4 5#8, []) ∧
      endsIn (step s) (fun u => u.reg .r0 == 5#32) = true :=
  ⟨staged_arm (idx := 0x3A0#12) (by decide +kernel) (by decide +kernel) (by decide +kernel), by decide +kernel⟩

/-- A Thumb halfword staged. -/
theorem witness_StepRunsDecodedInstruction_thumb :
    let s := thumbState.withFetchWord 16 0x2005
    (s.stagedAgrees ∧ s.stagedFresh) ∧ s.dead = false ∧ s.delay = 0 ∧ s.pending = some (.thumb 0x080#10) ∧
      alignHalf s.pc = 0x1000#32 ∧
      decode s.thumb [s.mem.read8 0x1000#32, s.mem.read8 0x1001#32, s.mem.read8 0x1002#32, s.mem.read8 0x1003#32] =
        .ok (.tMovImm8 0#4 5#8, [0#8, 0#8]) ∧
      endsIn (step s) (fun u => u.reg .r0 == 5#32) = true :=
  ⟨staged_thumb (idx := 0x080#10) (by decide +kernel) (by decide +kernel) (by decide +kernel), by decide +kernel⟩

/-- Nothing staged: a Decoding cycle stages the word, and the step after runs it. -/
theorem witness_StepRunsDecodedInstruction_decoding :
    let s := armState.setMem (armState.mem.write32 0x1000#32 0xE3A00005#32)
    s.dead = false ∧ s.delay = 0 ∧ s.pending = none ∧ s.halted = false ∧ s.stopped = false ∧ Psr.i s.cpsr = true ∧
      alignWord s.pc = 0x1000#32 ∧
      decode s.thumb [s.mem.read8 0x1000#32, s.mem.read8 0x1001#32, s.mem.read8 0x1002#32, s.mem.read8 0x1003#32] =
        .ok (.movImm .al false 0#4 0#4 0#4 5#8, []) ∧
      conditionPassed (condOf (s.mem.read32 0x1000#32)) s.cpsr = true ∧
      endsIn (step s) (fun u => endsIn (step u) fun v => v.reg .r0 == 5#32) = true := by decide +kernel

theorem witness_DecodeEncodeAgree : Instr.wf (.tMul 7#4 7#4) = true ∧ Instr.wf (.andImm .nv true 15#4 15#4 15#4 0xFF#8) = true ∧
    decode false ((encode (.andImm .nv true 15#4 15#4 15#4 0xFF#8)).bytes ++ [1#8]) = .ok (.andImm .nv true 15#4 15#4 15#4 0xFF#8, [1#8]) := by
  decide +kernel

theorem witness_DecodedIsWellFormed : decode true [0x7F#8, 0x43#8, 9#8] = .ok (.tMul 7#4 7#4, [9#8]) ∧
    decode false [0xF0#8, 0x00#8, 0xF0#8, 0xE7#8] = .ok (.undefRegOffsetBit4 .al, []) := by decide +kernel

/-- Around the top of the address space: a word at 0xFFFFFFFE wraps, and the bytes 4 and 2 further on keep their values. -/
theorem witness_MemoryAccess : armState.mem.wf ∧ 4 ≤ ((2#32 : Word) - 0xFFFFFFFE#32).toNat ∧ 2 ≤ ((0#32 : Word) - 0xFFFFFFFE#32).toNat ∧
    (armState.mem.write32 0xFFFFFFFE#32 0x44332211#32).read8 1#32 = 0x44#8 ∧
    (armState.mem.write32 0xFFFFFFFE#32 0x44332211#32).read8 2#32 = 0#8 ∧
    (armState.mem.write32 0xFFFFFFFE#32 0x44332211#32).wf ∧
    (armState.mem.write8 (0x2000#32 + 1#32) 0xAA#8).read32 0x2000#32 = 0x4433AA11#32 := by decide +kernel

/-- A state in which a store is staged, for the invariants over a step. -/
def storeState : State := armState.withFetchWord 32 0xE5810000

theorem witness_MemoryStaysCanonical : storeState.mem.wf ∧
    endsIn (step storeState) (fun t => t.mem.read32 0x2000#32 == 0x80000001#32) = true ∧
    (hostStep (.writeMemory 0x2000#32 0#8) storeState).isSome = true ∧ (hostStep .cycle storeState).isSome = true ∧
    (hostStep (.reset BootConvention.standard) storeState).isSome = true ∧
    (hostStep (.reactions [{ writes := [(0x2000#32, 0#8)], inputs := none }]) storeState).isSome = true := by decide +kernel

theorem witness_PcStaysAligned : armState.pcAligned ∧ thumbState.pcAligned ∧
    endsIn (step (armState.withFetchWord 32 0xE12FFF1E)) (fun t => t.pc == 0x4002#32 && t.thumb) = true := by decide +kernel

theorem witness_BankFollowsMode : armState.bankAgrees ∧ armState.params.strict = true ∧
    endsIn (step (armState.withFetchWord 32 0xE129F003)) (fun t => t.bankMode == .sys) = true ∧
    ((hostStep (.reset { BootConvention.standard with resetCpsr := 0xD1#32, namesMode := rfl }) armState).map fun t => (t.bankMode, Psr.mode t.cpsr)) = some (.fiq, 0x11#5) := by decide +kernel

theorem witness_StagedStaysCurrent : (storeState.stagedAgrees ∧ storeState.stagedFresh) ∧ storeState.quiet ∧
    endsIn (step (storeState.setMem (storeState.mem.write32 0x1004#32 0xE3A00005#32))) (fun t => t.pending == some (.arm 0x3A0#12)) = true :=
  ⟨staged_arm (idx := 0x580#12) (by decide +kernel) (by decide +kernel) (by decide +kernel), by decide +kernel, by decide +kernel⟩

/-- An instruction that makes a call; a call with no reaction; and one with a reaction that writes one byte twice and leaves the inputs. -/
theorem witness_InstructionsKeepStepper :
    endsIn (exec (.strImmPre .al true false 1#4 0#4 0#12) storeState) (fun t =>
      t.opcode == 0xE5810000#32 && t.pending == storeState.pending && t.outs.length == 1) = true ∧ storeState.reactions = [] ∧
    (let r : Reaction := { writes := [(0x2000#32, 1#8), (0x2004#32, 2#8), (0x2000#32, 3#8)], inputs := none }
     let s := { armState with reactions := [r] }
     s.reactions = r :: [] ∧ s.mem.wf ∧ r.writes = [(0x2000#32, 1#8), (0x2004#32, 2#8)] ++ (0x2000#32, 3#8) :: [] ∧
       (s.called (.write .word 0x2000#32 0xFFFFFFFF#32)).mem.read32 0x2000#32 = 0xFFFFFF03#32 ∧
       (s.called (.read .word 0x2000#32 0x44332211#32)).mem.read32 0x2000#32 = 0x44332203#32 ∧
       haltState.reactions.map (fun r => (r.inputs.map Inputs.halted)) = [some true] ∧
       (haltState.called (.read .byte 0#32 0#32)).halted = true) := by decide +kernel

theorem witness_UserModeIsConfined : Psr.mode userState.cpsr = 0x10#5 ∧ userState.bankMode = .usr ∧
    userState.params.msrUserControl = .blocked ∧ isSwi (.msrCpsrReg .al 15#4 3#4) = false ∧
    endsIn (exec (.msrCpsrReg .al 15#4 3#4) userState) (fun t => Psr.mode t.cpsr == 0x10#5) = true ∧
    PReg.r14svc ∉ allRegs.map (phys .usr) := by decide +kernel

theorem witness_OnlyTheseChangeSet : Instr.wf (.bx .al 14#4) = true ∧
    endsIn (exec (.bx .al 14#4) armState) (fun t => t.thumb != armState.thumb) = true ∧
    endsIn (exec (.movShiftImm .al true 0#4 15#4 0#5 .lsl 14#4) armState) (fun t => t.thumb != armState.thumb) = true := by
  decide +kernel

theorem witness_SwiReturnsExactly : isSwi (.tSwi 0#8) = true ∧ thumbState.thumb = Instr.isThumb (.tSwi 0#8) ∧ thumbState.pcAligned ∧
    Mode.ofBits (Psr.mode thumbState.cpsr) = some thumbState.bankMode ∧
    endsIn (exec (.tSwi 0#8) thumbState) (fun t => endsIn (exec (.movShiftImm .al true 0#4 15#4 0#5 .lsl 14#4) t) fun u =>
      u.cpsr == thumbState.cpsr && u.pc == 0x1002#32) = true := by decide +kernel

/-- R81, R89, R84, R90: at a misaligned `pc` the frame's advance and the skip keep its low bits (notes/assumptions/21.md). -/
theorem test_misaligned_pc :
    let s := machine 0xD3#32 2#32 [] [(0#32, 0xE3A00005#32)]
    endsIn (exec (.movImm .al false 0#4 0#4 0#4 5#8) s) (fun t => t.pc == 6#32) = true ∧
      (s.setMem (s.mem.write32 0#32 0x03A00005#32)).fetchDecode.pc = 6#32 := by decide +kernel

theorem witness_IrqReturnsExactly : (irqState true).irqTaken = true ∧ (irqState true).pcAligned ∧
    Mode.ofBits (Psr.mode (irqState true).cpsr) = some (irqState true).bankMode ∧
    endsIn (exec (.subImm .al true 14#4 15#4 0#4 4#8) (irqState true).interruptCheck) (fun u =>
      u.cpsr == thumbState.cpsr && u.pc == 0x1000#32) = true := by decide +kernel

end Sys2Proof.Tests
end

section
/-! The statements of spec/10_state.md: what reset leaves, the bank map, the current SPSR and SetMode, and what every step keeps of
`pc`, the bank map, the staged instruction and the instruction set. What an instruction can do is taken from `exec_reach`, what a step
can do from `step_cases`. -/

namespace Sys2Proof.Machine

/-! ## The program counter -/

/-- Settles O53, over the four things a step can do. -/
theorem pcStaysAligned : Obligations.PcStaysAligned := by
  intro s t ha h
  rcases step_cases s t h with ⟨_, rfl⟩ | ⟨_, _, rfl⟩ | ⟨_, _, _, rfl⟩ | ⟨_, i, u, _, _, _, _, hu, rfl⟩
  · exact ha
  · exact ha
  · exact stageNext_pcAligned _ ha
  · exact stageNext_pcAligned _ (exec_pcAligned i (s.clearOuts.setPending none) u ha hu)

/-! ## What is staged -/

/-- Settles O55: a delay cycle keeps what is staged with `pc` and memory, and every other cycle stages anew, from a state with nothing
staged. -/
theorem stagedStaysCurrent : Obligations.StagedStaysCurrent := by
  intro s t ha h
  rcases step_cases s t h with ⟨_, rfl⟩ | ⟨_, _, rfl⟩ | ⟨_, _, hp, rfl⟩ | ⟨_, i, u, _, _, _, _, hu, rfl⟩
  · exact ⟨ha, fun hf hq => ⟨hf, hq⟩⟩
  · exact ⟨ha, fun hf hq => ⟨hf, hq⟩⟩
  · obtain ⟨hs, hf⟩ := stageNext_staged s.clearOuts hp
    exact ⟨hs, fun _ hq => hf hq⟩
  · obtain ⟨⟨hp, _⟩, _, hc⟩ := exec_kept i _ u hu
    obtain ⟨hs, hf⟩ := stageNext_staged u hp
    exact ⟨hs, fun _ hq => hf (hc.quiet hq)⟩

/-! ## The instruction set -/

/-- Resolving the mode writes the bank map alone (R17). -/
theorem resolveMode_keeps {s t : State} (h : s.resolveMode = .ok t) : t.cpsr = s.cpsr ∧ t.params = s.params := by
  rcases State.resolveMode_ok h with ⟨m, _, rfl⟩ | ⟨_, rfl⟩
  · exact ⟨rfl, rfl⟩
  · exact ⟨rfl, rfl⟩

/-- What an exception return answers: the mode of the restored CPSR resolved, then the jump (R121). -/
theorem exceptionReturn_resolves {r q : Run} {v : Word} (h : r.exceptionReturn v = .ok q) :
    ∃ t, (r.st.setCpsr r.st.spsrCur).resolveMode = .ok t ∧ q.st = t.writePc v := by
  unfold Run.exceptionReturn at h
  split at h
  · rename_i t ht; cases h; exact ⟨t, ht, rfl⟩
  · cases h

/-- What MSR to CPSR answers, when it answers: the status word is the merged one (R196). -/
theorem msr_keeps {s t : State} {p : Word} {c : Prop} [Decidable c]
    (h : (if c then .ok (s.setCpsr p) else (s.setCpsr p).resolveMode) = (.ok t : Except Fault State)) :
    t.cpsr = p ∧ t.params = s.params := by
  split at h
  · cases h; exact ⟨rfl, rfl⟩
  · exact resolveMode_keeps h

/-- Only an operation that needs `A` changes T (R18). -/
theorem reach_thumb {A B : Prop} {s : State} {r : Run} (h : Reach A B s r) (hA : ¬ A) : r.st.thumb = s.thumb := by
  induction h with
  | start => rfl
  | flags h n z c v ih => simpa [State.thumb_eq] using ih
  | called h c ih => exact ih
  | setX h i v ih => simpa using ih
  | @setXusr r h i v ih => unfold Run.setXusr; split <;> exact ih
  | jump h v ih => exact ih
  | setSpsr h v ih => simpa [State.setSpsrCur] using ih
  | exchange h ha b v ih => exact absurd ha hA
  | @restore r q h ha v he ih =>
    obtain ⟨t, ht, hq⟩ := exceptionReturn_resolves he
    have hs : r.st.spsrCur = r.st.cpsr := by rw [spsrCur_eq, if_neg fun hb => hA (ha hb)]
    rw [hq, State.thumb_writePc, State.thumb_eq, (resolveMode_keeps ht).1, State.cpsr_setCpsr, hs]
    exact ih
  | entry h ha hB ra ih => exact absurd ha hA
  | msr h mask v t he ih => rw [State.thumb_eq, (msr_keeps he).1, thumb_msr]; exact ih

/-- Settles O58: `exec_reach` gives every operation that changes T the condition `mayChangeSet`. -/
theorem onlyTheseChangeSet : Obligations.OnlyTheseChangeSet := by
  intro i s t hwf h hne
  obtain ⟨r, n, hr, rfl⟩ := exec_reach i s t h
  by_contra hm
  refine hne ?_
  rw [State.thumb_eq, Run.cpsr_result]
  exact reach_thumb hr fun hA => hm (hA hwf)

/-! ## The bank map and the mode -/

/-- The bank map's agreement is about the parameters, the mode field and the bank map alone. -/
theorem bankAgrees_congr {s t : State} (h : s.bankAgrees) (hp : t.params = s.params) (hm : Psr.mode t.cpsr = Psr.mode s.cpsr)
    (hb : t.bankMode = s.bankMode) : t.bankAgrees := by
  unfold State.bankAgrees
  rw [hp, hm, hb]; exact h

/-- A resolved mode is the one the bank map follows (R17). -/
theorem resolveMode_bankAgrees {s t : State} (h : s.resolveMode = .ok t) : t.bankAgrees := by
  rcases State.resolveMode_ok h with ⟨m, hm, rfl⟩ | ⟨hs, rfl⟩
  · exact fun _ => hm
  · exact fun ht => absurd (hs ▸ ht) Bool.false_ne_true

/-- A merge that leaves the low byte leaves the mode (R196). -/
theorem mode_mergeBits {old v m : Word} (h : m.extractLsb' 0 8 = 0#8) : Psr.mode (mergeBits old v m) = Psr.mode old := by
  apply mode_congr
  intro k hk
  have hz : m.getLsbD k = false := by
    have := congrArg (·.getLsbD k) h
    simpa [show k < 8 by omega] using this
  rw [mergeBits, BitVec.getLsbD_or, BitVec.getLsbD_and, BitVec.getLsbD_and, BitVec.getLsbD_not, hz]
  simp [show k < 32 by omega]

/-- An exception entry leaves the bank map of the mode it enters (R304). -/
theorem enterException_bankAgrees (s : State) (m : Mode) (vec ra : Word) : (s.enterException m vec ra).bankAgrees := by
  intro _
  unfold State.enterException
  simp

/-- A register write leaves CPSR and bank map. -/
theorem setX_bankAgrees {s : State} (h : s.bankAgrees) (i : Reg) (v : Word) : (s.setX i v).bankAgrees :=
  bankAgrees_congr h (by simp) (by simp) (by simp)

/-- An SPSR write leaves CPSR and bank map. -/
theorem setSpsrCur_bankAgrees {s : State} (h : s.bankAgrees) (v : Word) : (s.setSpsrCur v).bankAgrees := by
  unfold State.setSpsrCur
  exact bankAgrees_congr h (by simp) (by simp) (by simp)

/-- Every operation keeps the bank map that of the mode (R17, R26). -/
theorem reach_bankAgrees {A B : Prop} {s : State} {r : Run} (h : Reach A B s r) (ha : s.bankAgrees) : r.st.bankAgrees := by
  induction h with
  | start => exact ha
  | flags h n z c v ih => exact bankAgrees_congr ih rfl (by simp) rfl
  | called h c ih => exact ih
  | setX h i v ih => rw [Run.st_setX]; exact setX_bankAgrees ih i v
  | @setXusr r h i v ih => unfold Run.setXusr; split <;> exact ih
  | jump h v ih => exact ih
  | setSpsr h v ih => exact setSpsrCur_bankAgrees ih v
  | exchange h hA b v ih => exact bankAgrees_congr ih rfl (by simp) rfl
  | restore h hA v he ih =>
    obtain ⟨t, ht, hq⟩ := exceptionReturn_resolves he
    rw [hq]
    exact bankAgrees_congr (resolveMode_bankAgrees ht) rfl rfl rfl
  | entry h hA hB ra ih => exact enterException_bankAgrees _ _ _ _
  | msr h mask v t he ih =>
    split at he
    · rename_i hm; cases he
      exact bankAgrees_congr ih rfl (mode_mergeBits hm) rfl
    · exact resolveMode_bankAgrees he

/-- Every instruction keeps the bank map that of the mode. -/
theorem exec_bankAgrees (i : Instr) (s t : State) (ha : s.bankAgrees) (h : exec i s = .next t) : t.bankAgrees := by
  obtain ⟨r, n, hr, rfl⟩ := exec_reach i s t h
  exact bankAgrees_congr (reach_bankAgrees hr ha) (by simp) (by simp) (by simp)

/-- So does the interrupt check. -/
theorem interruptCheck_bankAgrees (s : State) (h : s.bankAgrees) : s.interruptCheck.bankAgrees := by
  unfold State.interruptCheck
  split
  · exact h
  · split
    · split
      · exact enterException_bankAgrees _ _ _ _
      · exact h
    · exact h

/-- So does fetching. -/
theorem fetchDecode_bankAgrees (s : State) (h : s.bankAgrees) : s.fetchDecode.bankAgrees := by
  unfold State.fetchDecode
  split
  · exact h
  · simp only []
    split <;> exact h

/-- So does the end of a cycle. -/
theorem stageNext_bankAgrees (s : State) (h : s.bankAgrees) : s.stageNext.bankAgrees := by
  unfold State.stageNext
  simp only []
  split
  · exact interruptCheck_bankAgrees s h
  · exact fetchDecode_bankAgrees _ (interruptCheck_bankAgrees s h)

/-- So does a step. -/
theorem step_bankAgrees (s t : State) (ha : s.bankAgrees) (h : step s = .next t) : t.bankAgrees := by
  rcases step_cases s t h with ⟨_, rfl⟩ | ⟨_, _, rfl⟩ | ⟨_, _, _, rfl⟩ | ⟨_, i, u, _, _, _, _, hu, rfl⟩
  · exact ha
  · exact ha
  · exact stageNext_bankAgrees _ ha
  · exact stageNext_bankAgrees _ (exec_bankAgrees i (s.clearOuts.setPending none) u ha hu)

/-- The mode of a boot convention is the one its status word names. -/
theorem BootConvention.ofBits_mode (b : BootConvention) : Mode.ofBits (Psr.mode b.resetCpsr) = some b.mode :=
  (Option.some_get b.namesMode).symm

/-- Settles O54: an action of the host either makes a step, or resets to a mode the convention names, or leaves CPSR and bank map. -/
theorem bankFollowsMode : Obligations.BankFollowsMode := by
  refine ⟨step_bankAgrees, fun a s t ha h => ?_⟩
  cases a with
  | cycle =>
    simp only [hostStep] at h
    split at h
    · rename_i hu; cases h; exact step_bankAgrees s t ha hu
    · cases h; exact ha
    · cases h
  | reset b => cases h; exact fun _ => b.ofBits_mode
  | inputs v => cases h; exact ha
  | writeMemory addr b => cases h; exact ha
  | reactions rs => cases h; exact ha
  | writeRegister i v =>
    cases h
    unfold State.hostWrite
    split
    · exact ha
    · exact setX_bankAgrees ha i v
  | writeSpsr v => cases h; exact setSpsrCur_bankAgrees ha v

/-! ## Reset -/

@[simp] theorem State.cpsr_boot (b : BootConvention) (p : Config.Params) : (State.boot b p).cpsr = b.resetCpsr := rfl
@[simp] theorem State.bankMode_boot (b : BootConvention) (p : Config.Params) : (State.boot b p).bankMode = b.mode := rfl

/-- The registers after reset: `pc` is the start address, every other the convention's (R30). -/
theorem State.reg_boot (b : BootConvention) (p : Config.Params) (q : PReg) :
    (State.boot b p).reg q = if q = .pc then b.resetPc else b.regs.get q.index :=
  State.reg_setReg { State.boot b p with regs := b.regs } .pc q b.resetPc

@[simp] theorem State.pc_boot (b : BootConvention) (p : Config.Params) : (State.boot b p).pc = b.resetPc :=
  State.reg_boot b p .pc

/-- `SetMode` after reset changes nothing (R330). -/
theorem State.resolveMode_boot (b : BootConvention) (p : Config.Params) : (State.boot b p).resolveMode = .ok (State.boot b p) :=
  State.resolveMode_some b.ofBits_mode

/-- Settles O1: the convention's fields stand in the state, and `SetMode` would change nothing. -/
theorem resetState : Obligations.ResetState := by
  refine ⟨fun b p => ?_, rfl, by decide, State.pc_boot _ _⟩
  have hreg (q : PReg) (hq : q ≠ .pc) : (State.boot b p).reg q = b.regs.get q.index := by rw [State.reg_boot, if_neg hq]
  exact ⟨rfl, b.ofBits_mode, State.resolveMode_boot b p, State.pc_boot b p, rfl, rfl, rfl, hreg, rfl, rfl, rfl, rfl, rfl, rfl, rfl, rfl⟩

/-- A word without the bits of a mask is cut by it to itself. -/
theorem and_not_of_and_eq_zero {a m : Word} (h : a &&& m = 0#32) : a &&& ~~~m = a := by
  apply word_ext
  intro i hi
  have hz : (a.getLsbD i && m.getLsbD i) = false := by
    rw [← BitVec.getLsbD_and, h, BitVec.getLsbD_zero]
  simp only [BitVec.getLsbD_and, BitVec.getLsbD_not, hi, decide_true, Bool.true_and]
  cases ha : a.getLsbD i
  · rfl
  · simpa [ha] using hz

/-- The start address is aligned when its low bits are those of the set T selects. -/
theorem pcAligned_boot (b : BootConvention) (p : Config.Params)
    (h : (b.resetPc &&& (if Psr.t b.resetCpsr then 1#32 else 3#32)) = 0#32) : (State.boot b p).pcAligned := by
  have hcut := and_not_of_and_eq_zero h
  unfold State.pcAligned
  rw [alignTarget_eq, State.pc_boot, State.thumb_eq, State.cpsr_boot]
  cases ht : Psr.t b.resetCpsr <;> rw [ht] at hcut <;> exact hcut

/-- Reset meets the invariant from an aligned start address, with nothing staged and memory empty. -/
theorem boot_inv (b : BootConvention) (p : Config.Params)
    (h : (b.resetPc &&& (if Psr.t b.resetCpsr then 1#32 else 3#32)) = 0#32) : (State.boot b p).inv :=
  ⟨⟨.nil, fun _ hc => absurd hc List.not_mem_nil⟩, pcAligned_boot b p h, fun _ => b.ofBits_mode, trivial⟩

/-- Settles O2: the default convention's start address 0 is aligned too. -/
theorem resetMeetsInvariant : Obligations.ResetMeetsInvariant :=
  ⟨fun b p h => ⟨boot_inv b p h, trivial⟩, boot_inv _ _ (by decide)⟩

/-! ## The bank map -/

/-- A write of a register but r15 is what a read of it returns (R14). -/
theorem State.x_setX_self (s : State) {i : Reg} (v : Word) (h : i ≠ 15#4) : (s.setX i v).x i = v := by
  rw [State.x_eq, State.bankMode_setX, State.reg_setX, if_pos rfl, if_neg h]

/-- A write of a register changes no other (R14). -/
theorem State.reg_setX_of_ne (s : State) (i : Reg) (v : Word) {q : PReg} (h : q ≠ phys s.bankMode i) :
    (s.setX i v).reg q = s.reg q := by
  rw [State.reg_setX, if_neg h]

/-- Settles O3: the seven maps are computed, the access is by the laws of `setX`. -/
theorem bankMap : Obligations.BankMap := by
  refine ⟨rfl, rfl, rfl, rfl, rfl, rfl, rfl, fun s i v => ⟨rfl, rfl, s.x_fifteen, fun hi => ?_, ?_, fun q hq => ?_⟩⟩
  · exact ⟨s.x_setX_self v hi, fun q hq => s.reg_setX_of_ne i v hq⟩
  · exact s.pc_setX 15#4 v
  · exact s.reg_setX_of_ne 15#4 v (by rwa [phys_fifteen])

/-! ## The current SPSR -/

/-- A write of one mode's SPSR leaves every other mode's (R20, R21). -/
theorem State.spsrOf_setSpsrOf_of_ne (s : State) {m n : Mode} (v : Word) (hm : m.hasSpsr = true) (hne : m ≠ n) :
    (s.setSpsrOf n v).spsrOf m = s.spsrOf m := by
  cases m with
  | usr | sys => exact absurd hm Bool.false_ne_true
  | fiq | svc | abt | irq | und => simp [State.spsrOf, hne.symm]

/-- A write of an SPSR writes no register. -/
@[simp] theorem State.regs_setSpsrOf (s : State) (m : Mode) (v : Word) : (s.setSpsrOf m v).regs = s.regs := by
  cases m <;> rfl

/-- Settles O4, mode by mode. -/
theorem spsrAccess : Obligations.SpsrAccess := by
  intro s v
  unfold State.spsrCur State.setSpsrCur
  refine ⟨?_, ?_, ?_, ?_, ?_, ?_, fun m hm hne => s.spsrOf_setSpsrOf_of_ne v hm hne, by simp, by simp, by simp⟩
  · rintro (hb | hb) <;> rw [hb] <;> exact ⟨rfl, rfl⟩
  all_goals intro hb; rw [hb]; exact ⟨rfl, rfl⟩

/-! ## SetMode -/

/-- A number that is no mode's names none (R22). -/
theorem Mode.ofBits_eq_none {b : BitVec 5} (h : ∀ m : Mode, b ≠ m.bits) : Mode.ofBits b = none :=
  Option.eq_none_iff_forall_ne_some.2 fun m hm => h m (Mode.ofBits_eq_some.1 hm)

/-- Settles O5: mode resolution by whether the number is a mode's. -/
theorem setMode : Obligations.SetMode := by
  refine ⟨fun b m => Mode.ofBits_eq_some, rfl, fun s => ⟨fun m hm => ?_, fun hm => ?_⟩⟩
  · exact State.resolveMode_some (Mode.ofBits_eq_some.2 hm)
  · simp only [State.resolveMode, Mode.ofBits_eq_none hm]

end Sys2Proof.Machine
end

section
/-! The statements of spec/20_memory.md: little-endian access over a canonical memory, and the canonical form kept by every step and
by every action of the host. What a step can do is taken from `step_cases`, what an instruction leaves of memory from `exec_kept`. -/

namespace Sys2Proof.Machine

/-! ## What every step keeps -/

/-- Every instruction keeps the canonical form: it changes memory by its port calls alone (R41). -/
theorem exec_mem_wf (i : Instr) (s t : State) (hw : s.mem.wf) (h : exec i s = .next t) : t.mem.wf := by
  obtain ⟨_, cs, hc⟩ := exec_kept i s t h
  exact hc.wf hw

/-- So does a step. -/
theorem step_mem_wf (s t : State) (hw : s.mem.wf) (h : step s = .next t) : t.mem.wf := by
  rcases step_cases s t h with ⟨_, rfl⟩ | ⟨_, _, rfl⟩ | ⟨_, _, _, rfl⟩ | ⟨_, i, u, _, _, _, _, hu, rfl⟩
  · exact hw
  · exact hw
  · exact stageNext_wf _ hw
  · exact stageNext_wf _ (exec_mem_wf i (s.clearOuts.setPending none) u hw hu)

/-- A register write of the host leaves memory (R29). -/
@[simp] theorem State.mem_hostWrite (s : State) (i : Reg) (v : Word) : (s.hostWrite i v).mem = s.mem := by
  unfold State.hostWrite
  split
  · rfl
  · exact s.mem_setX i v

/-- Settles O52: an action of the host either makes a step, or writes one byte, or leaves memory, reset among the last (R333). -/
theorem memoryStaysCanonical : Obligations.MemoryStaysCanonical := by
  refine ⟨step_mem_wf, fun a s t hw h => ?_⟩
  cases a with
  | cycle =>
    simp only [hostStep] at h
    split at h
    · rename_i hu; cases h; exact step_mem_wf s t hw hu
    · cases h; exact hw
    · cases h
  | reset b => cases h; exact hw
  | inputs v => cases h; exact hw
  | writeMemory addr b => cases h; exact Memory.wf_write8 hw addr b
  | reactions rs => cases h; exact hw
  | writeRegister i v => cases h; rwa [State.mem_hostWrite]
  | writeSpsr v => cases h; rwa [State.setSpsrCur, State.mem_setSpsrOf]

/-! ## Little-endian access -/

/-- An address at least `n` past `a`, modulo 2^32, is none of the `n` addresses from `a` on (R40). -/
theorem ne_add_of_le_sub {a b : Word} {n k : Nat} (h : n ≤ (b - a).toNat) (hk : k < n) : b ≠ a + BitVec.ofNat 32 k := by
  rintro rfl
  rw [add_sub_cancel_left, BitVec.toNat_ofNat] at h
  exact absurd (Nat.mod_le k (2 ^ 32)) (by omega)

/-- The bits of four bytes put together, the lowest byte first (R42). -/
theorem getLsbD_wordOfBytes (b0 b1 b2 b3 : Byte) (i : Nat) :
    (wordOfBytes b0 b1 b2 b3).getLsbD i = if i < 8 then b0.getLsbD i else if i < 16 then b1.getLsbD (i - 8)
      else if i < 24 then b2.getLsbD (i - 16) else b3.getLsbD (i - 24) := by
  have h1 : i - 8 < 8 ↔ i < 16 := by omega
  have h2 : i - (8 + 8) < 8 ↔ i < 24 := by omega
  simp only [wordOfBytes, BitVec.getLsbD_append, Nat.sub_sub, h1, h2]

/-- Byte `k` of a word read stands at its address plus `k` (R42). -/
theorem Memory.extract_read32 (m : Memory) (a : Word) {k : Nat} (hk : k < 4) :
    (m.read32 a).extractLsb' (8 * k) 8 = m.read8 (a + BitVec.ofNat 32 k) := by
  apply BitVec.eq_of_getLsbD_eq
  intro i hi
  rw [BitVec.getLsbD_extractLsb', Memory.read32, getLsbD_wordOfBytes, decide_eq_true hi, Bool.true_and]
  match k, hk with
  | 0, _ => simp [hi]
  | 1, _ => simp [show 8 + i < 16 by omega]
  | 2, _ => simp [show ¬ 16 + i < 16 by omega, show ¬ 16 + i < 8 by omega, show 16 + i < 24 by omega]
  | 3, _ => simp [show ¬ 24 + i < 16 by omega, show ¬ 24 + i < 8 by omega]

/-- Byte 1 of a word replaced: its bits are cut out and the new ones put in. -/
theorem wordOfBytes_replace_one (b0 b1 b2 b3 b : Byte) :
    wordOfBytes b0 b b2 b3 = (wordOfBytes b0 b1 b2 b3 &&& 0xFFFF00FF#32) ||| (b.setWidth 32 <<< 8) := by
  have hmask : ∀ i < 32, (0xFFFF00FF#32).getLsbD i = (decide (i < 8) || !decide (i < 16)) := by decide
  apply word_ext
  intro i hi
  simp only [BitVec.getLsbD_or, BitVec.getLsbD_and, hmask i hi, getLsbD_wordOfBytes, BitVec.getLsbD_shiftLeft,
    BitVec.getLsbD_setWidth]
  by_cases h8 : i < 8
  · simp [h8]
  · by_cases h16 : i < 16
    · simp [h8, h16, hi, show i - 8 < 32 by omega]
    · simp [h8, h16, b.getLsbD_of_ge (i - 8) (by omega)]

/-- A byte written into a word changes byte 1 of it. -/
theorem Memory.read32_write8_one {m : Memory} (hw : m.wf) (a : Word) (b : Byte) :
    (m.write8 (a + 1#32) b).read32 a = (m.read32 a &&& 0xFFFF00FF#32) ||| (b.setWidth 32 <<< 8) := by
  have h0 : a ≠ a + 1#32 := by bv_omega
  have h2 : a + 2#32 ≠ a + 1#32 := by bv_omega
  have h3 : a + 3#32 ≠ a + 1#32 := by bv_omega
  rw [Memory.read32, Memory.read8_write8_of_ne m b h0, Memory.read8_write8_of_ne m b h2, Memory.read8_write8_of_ne m b h3,
    Memory.read8_write8_self hw]
  exact wordOfBytes_replace_one ..

/-- Settles O51: byte `k` of a word written is byte `k` of the word read back, and the bytes outside are told by their distance from
the address, so the wrap at 2^32 is no case of its own. -/
theorem memoryAccess : Obligations.MemoryAccess := by
  refine fun m a hw => ⟨fun w => ⟨Memory.wf_write32 hw a w, Memory.read32_write32_self hw a w, fun k hk => ?_, fun b hb => ?_⟩,
    fun h => ⟨Memory.wf_write16 hw a h, Memory.read16_write16_self hw a h, fun b hb => ?_⟩,
    fun b => ⟨Memory.wf_write8 hw _ b, Memory.read32_write8_one hw a b⟩⟩
  · rw [← Memory.extract_read32 _ a hk, Memory.read32_write32_self hw]
  · exact m.read8_store .word a w fun k hk => ne_add_of_le_sub hb hk
  · have h0 : b ≠ a := by simpa using ne_add_of_le_sub hb (k := 0) (by decide)
    exact m.read8_write16_of_ne h h0 (ne_add_of_le_sub hb (k := 1) (by decide))

end Sys2Proof.Machine
end

section
/-! The statements of spec/30_encoding.md: what the rows of the two decode tables match, that decoding undoes encoding, and what is
decoded. The tables' laws and the round trip of each instruction are those of Laws/Decode.lean and Laws/PerInstr.lean. -/

namespace Sys2Proof.Laws.RoundTrip

/-- The code of every well-formed instruction decodes to it (R67): the round trips of the single instructions, in the tables' order. -/
theorem decode_encode (i : Instr) : Statement i := by
  cases i with
  | andShiftImm => apply andShiftImm | andShiftReg => apply andShiftReg | andImm => apply andImm
  | eorShiftImm => apply eorShiftImm | eorShiftReg => apply eorShiftReg | eorImm => apply eorImm
  | subShiftImm => apply subShiftImm | subShiftReg => apply subShiftReg | subImm => apply subImm
  | rsbShiftImm => apply rsbShiftImm | rsbShiftReg => apply rsbShiftReg | rsbImm => apply rsbImm
  | addShiftImm => apply addShiftImm | addShiftReg => apply addShiftReg | addImm => apply addImm
  | adcShiftImm => apply adcShiftImm | adcShiftReg => apply adcShiftReg | adcImm => apply adcImm
  | sbcShiftImm => apply sbcShiftImm | sbcShiftReg => apply sbcShiftReg | sbcImm => apply sbcImm
  | rscShiftImm => apply rscShiftImm | rscShiftReg => apply rscShiftReg | rscImm => apply rscImm
  | tstShiftImm => apply tstShiftImm | tstShiftReg => apply tstShiftReg | tstImm => apply tstImm
  | teqShiftImm => apply teqShiftImm | teqShiftReg => apply teqShiftReg | teqImm => apply teqImm
  | cmpShiftImm => apply cmpShiftImm | cmpShiftReg => apply cmpShiftReg | cmpImm => apply cmpImm
  | cmnShiftImm => apply cmnShiftImm | cmnShiftReg => apply cmnShiftReg | cmnImm => apply cmnImm
  | orrShiftImm => apply orrShiftImm | orrShiftReg => apply orrShiftReg | orrImm => apply orrImm
  | movShiftImm => apply movShiftImm | movShiftReg => apply movShiftReg | movImm => apply movImm
  | bicShiftImm => apply bicShiftImm | bicShiftReg => apply bicShiftReg | bicImm => apply bicImm
  | mvnShiftImm => apply mvnShiftImm | mvnShiftReg => apply mvnShiftReg | mvnImm => apply mvnImm
  | mul => apply mul | mla => apply mla | umull => apply umull | umlal => apply umlal | smull => apply smull
  | smlal => apply smlal
  | swp => apply swp | swpb => apply swpb
  | strhReg => apply strhReg | strhImm => apply strhImm | ldrhReg => apply ldrhReg | ldrhImm => apply ldrhImm
  | ldrsbReg => apply ldrsbReg | ldrsbImm => apply ldrsbImm | ldrshReg => apply ldrshReg | ldrshImm => apply ldrshImm
  | mrs => apply mrs | msrCpsrReg => apply msrCpsrReg | msrSpsrReg => apply msrSpsrReg | msrCpsrImm => apply msrCpsrImm
  | msrSpsrImm => apply msrSpsrImm | bx => apply bx
  | strImmPre => apply strImmPre | strImmPost => apply strImmPost | strtImm => apply strtImm
  | strRegPre => apply strRegPre | strRegPost => apply strRegPost | strtReg => apply strtReg
  | ldrImmPre => apply ldrImmPre | ldrImmPost => apply ldrImmPost | ldrtImm => apply ldrtImm
  | ldrRegPre => apply ldrRegPre | ldrRegPost => apply ldrRegPost | ldrtReg => apply ldrtReg
  | strbImmPre => apply strbImmPre | strbImmPost => apply strbImmPost | strbtImm => apply strbtImm
  | strbRegPre => apply strbRegPre | strbRegPost => apply strbRegPost | strbtReg => apply strbtReg
  | ldrbImmPre => apply ldrbImmPre | ldrbImmPost => apply ldrbImmPost | ldrbtImm => apply ldrbtImm
  | ldrbRegPre => apply ldrbRegPre | ldrbRegPost => apply ldrbRegPost | ldrbtReg => apply ldrbtReg
  | stm => apply stm | ldm => apply ldm | b => apply b | bl => apply bl
  | stc => apply stc | ldc => apply ldc | cdp => apply cdp | mcr => apply mcr | mrc => apply mrc | swi => apply swi
  | undefMulSpace => apply undefMulSpace | undefSwapBit23 => apply undefSwapBit23 | undefSwapBit20 => apply undefSwapBit20
  | undefSwapBit21 => apply undefSwapBit21 | undefHalfStore => apply undefHalfStore
  | undefTestBit7 => apply undefTestBit7 | undefTestLsl01 => apply undefTestLsl01 | undefTestLo2 => apply undefTestLo2
  | undefTestBit6Reg => apply undefTestBit6Reg | undefTestLo3 => apply undefTestLo3
  | undefMrsLo1 => apply undefMrsLo1 | undefMsrSpsrLo1 => apply undefMsrSpsrLo1 | undefTestImm => apply undefTestImm
  | undefRegOffsetBit4 => apply undefRegOffsetBit4
  | tLslImm => apply tLslImm | tLsrImm => apply tLsrImm | tAsrImm => apply tAsrImm
  | tAddReg => apply tAddReg | tSubReg => apply tSubReg | tAddImm3 => apply tAddImm3 | tSubImm3 => apply tSubImm3
  | tMovImm8 => apply tMovImm8 | tCmpImm8 => apply tCmpImm8 | tAddImm8 => apply tAddImm8 | tSubImm8 => apply tSubImm8
  | tAnd => apply tAnd | tEor => apply tEor | tLslReg => apply tLslReg | tLsrReg => apply tLsrReg | tAsrReg => apply tAsrReg
  | tAdc => apply tAdc | tSbc => apply tSbc | tRor => apply tRor
  | tTst => apply tTst | tNeg => apply tNeg | tCmpReg => apply tCmpReg | tCmn => apply tCmn | tOrr => apply tOrr
  | tMul => apply tMul | tBic => apply tBic | tMvn => apply tMvn
  | tAddHi => apply tAddHi | tCmpHi => apply tCmpHi | tMovHi => apply tMovHi | tBx => apply tBx
  | tLdrPc => apply tLdrPc
  | tStrReg => apply tStrReg | tStrhReg => apply tStrhReg | tStrbReg => apply tStrbReg | tLdsbReg => apply tLdsbReg
  | tLdrReg => apply tLdrReg | tLdrhReg => apply tLdrhReg | tLdrbReg => apply tLdrbReg | tLdshReg => apply tLdshReg
  | tStrImm => apply tStrImm | tLdrImm => apply tLdrImm | tStrbImm => apply tStrbImm | tLdrbImm => apply tLdrbImm
  | tStrhImm => apply tStrhImm | tLdrhImm => apply tLdrhImm
  | tStrSp => apply tStrSp | tLdrSp => apply tLdrSp
  | tAddPc => apply tAddPc | tAddSp => apply tAddSp | tIncSp => apply tIncSp | tDecSp => apply tDecSp
  | tPush => apply tPush | tPop => apply tPop | tStmia => apply tStmia | tLdmia => apply tLdmia
  | tBeq => apply tBeq | tBne => apply tBne | tBcs => apply tBcs | tBcc => apply tBcc
  | tBmi => apply tBmi | tBpl => apply tBpl | tBvs => apply tBvs | tBvc => apply tBvc
  | tBhi => apply tBhi | tBls => apply tBls | tBge => apply tBge | tBlt => apply tBlt
  | tBgt => apply tBgt | tBle => apply tBle
  | tSwi => apply tSwi | tB => apply tB | tBlHigh => apply tBlHigh | tBlLow => apply tBlLow
  | tUndefB1 => apply tUndefB1 | tUndefB2 => apply tUndefB2 | tUndefB6 => apply tUndefB6 | tUndefB8 => apply tUndefB8
  | tUndefBe => apply tUndefBe | tUndefDe => apply tUndefDe | tUndefE8 => apply tUndefE8

end Sys2Proof.Laws.RoundTrip

namespace Sys2Proof.Machine

/-! ## Decoding a list of bytes -/

/-- The bytes of a word, with any bytes after them, decode in ARM state as the word does (R42, R60). -/
theorem decode_bytesOfWord {w : Word} {i : Instr} (h : decodeArm w = some i) (rest : List Byte) :
    decode false (bytesOfWord w ++ rest) = .ok (i, rest) := by
  simp only [bytesOfWord, List.cons_append, List.nil_append, decode, wordOfBytes_extract, h]

/-- The bytes of a halfword, with any bytes after them, decode in Thumb state as the halfword does (R42, R60). -/
theorem decode_bytesOfHalf {h : Half} {i : Instr} (hd : decodeThumb h = some i) (rest : List Byte) :
    decode true (bytesOfHalf h ++ rest) = .ok (i, rest) := by
  simp only [bytesOfHalf, List.cons_append, List.nil_append, decode, halfOfBytes_extract, hd]

/-- Settles O49: a code is a word or a halfword by the instruction's set, its bytes decode as it does, and that is the instruction. -/
theorem decodeEncodeAgree : Obligations.DecodeEncodeAgree := by
  intro i rest hwf
  have hi := Laws.RoundTrip.decode_encode i hwf
  obtain ⟨⟨w, hc⟩, hs⟩ | ⟨⟨h, hc⟩, hs⟩ := encode_width i
  · rw [hc] at hi; rw [hs, hc]; exact decode_bytesOfWord hi rest
  · rw [hc] at hi; rw [hs, hc]; exact decode_bytesOfHalf hi rest

/-- Every decoding that answers: the instruction is that of the first four bytes in ARM state, of the first two in Thumb state (R60). -/
theorem decode_ok {thumb : Bool} {bytes rest : List Byte} {i : Instr} (h : decode thumb bytes = .ok (i, rest)) :
    (thumb = false ∧ ∃ b0 b1 b2 b3, bytes = b0 :: b1 :: b2 :: b3 :: rest ∧ decodeArm (wordOfBytes b0 b1 b2 b3) = some i) ∨
      (thumb = true ∧ ∃ b0 b1, bytes = b0 :: b1 :: rest ∧ decodeThumb (halfOfBytes b0 b1) = some i) := by
  unfold decode at h
  split at h
  · split at h
    · rename_i hj; cases h; exact .inl ⟨rfl, _, _, _, _, rfl, hj⟩
    · cases h
  · split at h
    · rename_i hj; cases h; exact .inr ⟨rfl, _, _, rfl, hj⟩
    · cases h
  · cases h

/-! ## The rows of the tables -/

/-- An ARM word is decoded by a row of the table. -/
theorem decodeArm_row {w : Word} {i : Instr} (h : decodeArm w = some i) : ∃ r ∈ armRows, r.build w = i := by
  obtain ⟨r, hr, hb⟩ := Option.map_eq_some_iff.1 h
  exact ⟨r, List.mem_of_find?_eq_some hr, hb⟩

/-- A Thumb halfword is decoded by a row of the table. -/
theorem decodeThumb_row {h : Half} {i : Instr} (hd : decodeThumb h = some i) : ∃ r ∈ thumbRows, r.build h = i := by
  obtain ⟨r, hr, hb⟩ := Option.map_eq_some_iff.1 hd
  exact ⟨r, List.mem_of_find?_eq_some hr, hb⟩

/-- Settles O50: what is decoded is built by a row, and every row builds a well-formed instruction of its table's set. -/
theorem decodedIsWellFormed : Obligations.DecodedIsWellFormed := by
  intro thumb bytes rest i h
  obtain ⟨rfl, b0, b1, b2, b3, rfl, hd⟩ | ⟨rfl, b0, b1, rfl, hd⟩ := decode_ok h
  · obtain ⟨r, hr, rfl⟩ := decodeArm_row hd
    obtain ⟨hwf, hset⟩ := armRows_wf r hr (wordOfBytes b0 b1 b2 b3)
    exact ⟨hwf, hset, rfl⟩
  · obtain ⟨r, hr, rfl⟩ := decodeThumb_row hd
    obtain ⟨hwf, hset⟩ := thumbRows_wf r hr (halfOfBytes b0 b1)
    exact ⟨hwf, hset, rfl⟩

/-- Where some row matches, the search for one finds one. -/
theorem find_isSome_of_covered {α : Type} {n : Nat} {rows : List α} {mask pattern : α → BitVec n} {x : BitVec n}
    (h : ∃ r ∈ rows, x &&& mask r = pattern r) : (rows.find? fun r => x &&& mask r == pattern r).isSome = true := by
  simpa only [List.find?_isSome, beq_iff_eq] using h

/-- Settles O48: no two rows of a table overlap and every index is covered (R64, R68). -/
theorem everyBucketHasOneRow : Obligations.EveryBucketHasOneRow := by
  refine ⟨fun idx => ?_, fun idx => ?_, fun w => ?_, fun h => ?_⟩
  · exact filter_length_one ArmRow.mask ArmRow.pattern armRows_disjoint (armRows_cover _)
  · exact filter_length_one ThumbRow.mask ThumbRow.pattern thumbRows_disjoint (thumbRows_cover _)
  · rw [decodeArm, Option.isSome_map]; exact find_isSome_of_covered (armRows_cover _)
  · rw [decodeThumb, Option.isSome_map]; exact find_isSome_of_covered (thumbRows_cover _)

end Sys2Proof.Machine
end

section
/-! The statements of spec/40_cycle_and_condition.md: the condition table, the order of a cycle, fetch and decode, the run of what is
staged, and the port calls as an instruction's one way to the environment. What each branch of `Cycle()` answers is said once, in the
rules of `step`, `stageNext` and `fetchDecode`, what an instruction keeps is taken from `exec_kept`. -/

namespace Sys2Proof.Machine

/-! ## Conditions -/

/-- Settles O6: each row is the evaluator's arm over the four flag bits (R86). -/
theorem conditionTable : Obligations.ConditionTable := by
  intro p
  simp only [Cond.ofBits, BitVec.toNat_ofNat, Nat.reducePow, Nat.reduceMod, conditionPassed, Psr.n, Psr.z, Psr.c, Psr.v,
    Bool.not_eq_true', Bool.and_eq_true, Bool.or_eq_true, beq_iff_eq, bne_iff_ne, and_self]

/-! ## One port call -/

theorem Environment.react_nil {e : Environment} (h : e.reactions = []) : e.react = e := by
  unfold Environment.react; rw [h]

theorem Environment.react_cons {e : Environment} {r : Reaction} {rest : List Reaction} (h : e.reactions = r :: rest) :
    e.react = { mem := r.writes.foldl (fun m c => m.write8 c.1 c.2) e.mem, inputs := r.inputs.getD e.inputs, reactions := rest } := by
  unfold Environment.react; rw [h]

/-- The last write at a byte is what it reads as. -/
theorem Memory.read8_writes_last {m : Memory} (hw : m.wf) (before : List (Word × Byte)) {after : List (Word × Byte)} {b : Word}
    (x : Byte) (h : ∀ w ∈ after, w.1 ≠ b) :
    Memory.read8 ((before ++ (b, x) :: after).foldl (fun m c => m.write8 c.1 c.2) m) b = x := by
  rw [List.foldl_append, List.foldl_cons, Memory.read8_writes _ _ h]
  exact Memory.read8_write8_self (Memory.wf_writes hw before) b x

/-- What a port call's own access leaves of memory: a read leaves it, a write stores (R41, R42). -/
def OutEvent.access (c : OutEvent) (m : Memory) : Memory :=
  match c with
  | .read _ _ _ => m
  | .write z a v => m.store z a v
  | .wake => m

theorem OutEvent.access_wf {m : Memory} (hw : m.wf) (c : OutEvent) : (c.access m).wf := by
  cases c with
  | read z a v => exact hw
  | write z a v => exact Memory.wf_store hw z a v
  | wake => exact hw

/-- A port call accesses memory, and the environment then reacts (R333). -/
theorem Environment.answer_call (e : Environment) {c : OutEvent} (hc : c ≠ .wake) :
    e.answer c = ({ e with mem := c.access e.mem } : Environment).react := by
  cases c with
  | read z a v => rfl
  | write z a v => rfl
  | wake => exact absurd rfl hc

/-- A port call with no reaction left accesses memory and is recorded, and nothing else. -/
theorem State.called_of_no_reaction {s : State} (h : s.reactions = []) {c : OutEvent} (hc : c ≠ .wake) :
    s.called c = { s with mem := c.access s.mem, outs := s.outs ++ [c] } := by
  have he : s.environment.answer c = { s.environment with mem := c.access s.mem } := by
    rw [Environment.answer_call _ hc, Environment.react_nil h]; rfl
  unfold State.called
  rw [he]; rfl

/-- A port call with a reaction accesses memory, which the reaction then writes, and takes the reaction's inputs. -/
theorem State.environment_called_of_reaction {s : State} {r : Reaction} {rest : List Reaction} (h : s.reactions = r :: rest)
    {c : OutEvent} (hc : c ≠ .wake) :
    (s.called c).environment = { mem := r.writes.foldl (fun m c => m.write8 c.1 c.2) (c.access s.mem),
                                 inputs := r.inputs.getD s.environment.inputs, reactions := rest } := by
  rw [State.environment_called, Environment.answer_call _ hc, Environment.react_cons h]; rfl

/-- The inputs field by field (R28). -/
theorem State.inputs_fields {t : State} {v : Inputs} (h : t.environment.inputs = v) :
    t.irqEnable = v.irqEnable ∧ t.irqPending = v.irqPending ∧ t.irqMaster = v.irqMaster ∧ t.halted = v.halted ∧
      t.stopped = v.stopped := by
  subst h; exact ⟨rfl, rfl, rfl, rfl, rfl⟩

/-- Settles O56: an instruction's part is `exec_kept`; a port call's part is by whether a reaction is left for it. -/
theorem instructionsKeepStepper : Obligations.InstructionsKeepStepper := by
  refine ⟨exec_kept, fun s z a v h => ⟨?_, ?_⟩, ?_⟩
  · exact State.called_of_no_reaction h (by simp)
  · exact State.called_of_no_reaction h (by simp)
  · intro s z a v c r rest h hc m t
    have hm : c.access s.mem = m := by rcases hc with rfl | rfl <;> simp [m, OutEvent.access]
    have hw : c ≠ .wake := by rcases hc with rfl | rfl <;> simp
    have he := State.environment_called_of_reaction h hw
    have hmem := congrArg Environment.mem he
    have hin := congrArg Environment.inputs he
    refine ⟨rfl, rfl, rfl, ⟨⟨rfl, rfl, rfl, rfl, rfl⟩, rfl, rfl, rfl, rfl, rfl⟩, rfl, congrArg Environment.reactions he,
      fun v hv => ?_, fun hn => ?_, fun b hb => ?_, fun before after b x hwf hr ha => ?_⟩
    · exact State.inputs_fields (by rw [hin, hv, Option.getD_some])
    · exact State.inputs_fields (v := s.environment.inputs) (by rw [hin, hn, Option.getD_none])
    · rw [State.mem_eq, hmem, hm]; exact Memory.read8_writes m r.writes hb
    · rw [State.mem_eq, hmem, hr]; exact Memory.read8_writes_last (c.access_wf hwf) before x ha

/-! ## The branches of a cycle -/

theorem step_dead {s : State} (hd : s.dead = true) : step s = .next s.clearOuts := by
  unfold step cycle
  simp [hd]

theorem step_delay {s : State} (hd : s.dead = false) (hl : 0 < s.delay) :
    step s = .next (s.clearOuts.setDelay (s.delay - 1)) := by
  unfold step cycle
  simp [hd, hl]

/-- A Decoding cycle (R80 step C2). -/
theorem step_decoding {s : State} (hd : s.dead = false) (hl : s.delay = 0) (hp : s.pending = none) :
    step s = .next s.clearOuts.stageNext := by
  unfold step cycle
  simp [hd, hl, hp]

/-- A core that the interrupt check leaves halted or stopped fetches nothing (R314). -/
theorem stageNext_waiting {s : State} (h : s.interruptCheck.halted = true ∨ s.interruptCheck.stopped = true) :
    s.stageNext = s.interruptCheck :=
  if_pos (Bool.or_eq_true_iff.2 h)

theorem stageNext_running {s : State} (hh : s.interruptCheck.halted = false) (hs : s.interruptCheck.stopped = false) :
    s.stageNext = s.interruptCheck.fetchDecode :=
  if_neg (by simp [hh, hs])

/-- With IRQ masked or no source waiting the interrupt check does nothing (R310). -/
theorem interruptCheck_eq_self {s : State} (h : Psr.i s.cpsr = true ∨ s.irqWaiting = false) : s.interruptCheck = s := by
  unfold State.interruptCheck
  rcases h with h | h <;> simp [h]

/-- Settles O44: the branches of `Cycle()`; an instruction leaves `pending_instruction` as the dispatch emptied it. -/
theorem cycleOrder : Obligations.CycleOrder := by
  refine fun s => ⟨step_dead, step_delay, fun hd hl hp => ⟨fun hw => ?_, fun hh hs => ?_⟩, stageNext_waiting, stageNext_running, ?_⟩
  · exact (step_decoding hd hl hp).trans (congrArg Host.Outcome.next (stageNext_waiting hw))
  · exact (step_decoding hd hl hp).trans (congrArg Host.Outcome.next (stageNext_running hh hs))
  · intro b i u hd hl hp hi hu hw hirq
    have hself := interruptCheck_eq_self hirq
    obtain ⟨⟨hpu, _⟩, _⟩ := exec_kept i _ u hu
    refine ⟨?_, hpu⟩
    rw [step_pending s b i hd hl hp hi, hu]
    exact congrArg Host.Outcome.next ((stageNext_waiting (by rwa [hself])).trans hself)

/-! ## Fetch and decode -/

/-- The halfword fetched, extended with zeros and cut back (R24). -/
theorem State.setWidth_fetchThumb (s : State) : s.fetchThumb.value.setWidth 16 = s.mem.read16 (alignHalf s.pc) := by
  simp [State.fetchThumb]

theorem fetchDecode_thumb {s : State} (ht : s.thumb = true) :
    s.fetchDecode = ((s.called s.fetchThumb.call).setOpcode s.fetchThumb.value).setPending
      (some (.thumb (thumbIndex (s.mem.read16 (alignHalf s.pc))))) := by
  rw [← s.setWidth_fetchThumb]
  exact if_pos ht

/-- An ARM word whose condition passes is staged (R83). -/
theorem fetchDecode_arm {s : State} (ht : s.thumb = false)
    (hc : conditionPassed (condOf (s.mem.read32 (alignWord s.pc))) s.cpsr = true) :
    s.fetchDecode = ((s.called s.fetchArm.call).setOpcode s.fetchArm.value).setPending
      (some (.arm (armIndex (s.mem.read32 (alignWord s.pc))))) :=
  (if_neg (Bool.eq_false_iff.1 ht)).trans (if_pos hc)

/-- An ARM word whose condition fails is skipped (R84). -/
theorem fetchDecode_skip {s : State} (ht : s.thumb = false)
    (hc : conditionPassed (condOf (s.mem.read32 (alignWord s.pc))) s.cpsr = false) :
    s.fetchDecode = ((s.called s.fetchArm.call).setOpcode s.fetchArm.value).setPc (s.pc + 4#32) :=
  (if_neg (Bool.eq_false_iff.1 ht)).trans (if_neg (Bool.eq_false_iff.1 hc))

/-- Settles O45, by the set in force and, in ARM state, the condition of the word fetched. -/
theorem fetchAndDecode : Obligations.FetchAndDecode := by
  intro s hp
  refine ⟨fetchDecode_thumb, fun ht => ⟨fetchDecode_arm ht, fun hc => ?_⟩⟩
  have hf := fetchDecode_skip ht hc
  simp only [hf]
  exact ⟨State.pc_setPc _ _, rfl, hp, fun q hq _ => State.reg_setPc_of_ne _ _ hq, rfl, ⟨rfl, rfl, rfl, rfl, rfl⟩,
    rfl, rfl, rfl, rfl, rfl, rfl⟩

/-! ## The step that runs an instruction -/

/-- The bucket of a word names the instruction the word decodes to (R61). -/
theorem Bucket.instr_arm (w : Word) : Bucket.instr (.arm (armIndex w)) w = decodeArm w := rfl

/-- So does the bucket of a halfword, which `opcode` holds in bits 15:0 (R24, R66). -/
theorem Bucket.instr_thumb {h : Half} {w : Word} (hw : w.setWidth 16 = h) :
    Bucket.instr (.thumb (thumbIndex h)) w = decodeThumb h := by
  subst hw; rfl

/-- What a fetch stages is the instruction the bytes at `pc` decode to, read before the environment answers the fetch; it changes no
register and no status word (R83). -/
theorem fetchDecode_stages {s : State} {i : Instr} {rest : List Byte}
    (hdec : let a := if s.thumb then alignHalf s.pc else alignWord s.pc
      decode s.thumb [s.mem.read8 a, s.mem.read8 (a + 1#32), s.mem.read8 (a + 2#32), s.mem.read8 (a + 3#32)] = .ok (i, rest))
    (hc : s.thumb = false → conditionPassed (condOf (s.mem.read32 (alignWord s.pc))) s.cpsr = true) :
    (∃ b, s.fetchDecode.pending = some b ∧ b.instr s.fetchDecode.opcode = some i) ∧ s.fetchDecode.regs = s.regs ∧
      s.fetchDecode.cpsr = s.cpsr ∧ s.fetchDecode.dead = s.dead ∧ s.fetchDecode.delay = s.delay ∧
      s.fetchDecode.environment = s.environment.react := by
  cases ht : s.thumb with
  | true =>
    rw [ht] at hdec
    have hd : decodeThumb (s.mem.read16 (alignHalf s.pc)) = some i := decodeThumb_of_decode hdec
    rw [fetchDecode_thumb ht]
    exact ⟨⟨_, rfl, (Bucket.instr_thumb s.setWidth_fetchThumb).trans hd⟩, rfl, rfl, rfl, rfl, rfl⟩
  | false =>
    rw [ht] at hdec
    have hd : decodeArm (s.mem.read32 (alignWord s.pc)) = some i := decodeArm_of_decode hdec
    rw [fetchDecode_arm ht (hc ht)]
    exact ⟨⟨_, rfl, (Bucket.instr_arm _).trans hd⟩, rfl, rfl, rfl, rfl, rfl⟩

/-- Settles O46: a step runs the bucket that is staged; a Decoding cycle with no interrupt to take is the fetch, which stages the bucket
of the instruction. -/
theorem stepRunsDecodedInstruction : Obligations.StepRunsDecodedInstruction := by
  refine ⟨fun s b i rest hd hl hp hagr hfresh hdec => ?_, fun s i rest hd hl hp hh hs hirq hdec hc => ?_⟩
  · exact step_pending s b i hd hl hp (staged_instr s b i rest hp hagr hfresh hdec)
  · have hself : s.clearOuts.interruptCheck = s.clearOuts := interruptCheck_eq_self hirq
    have hstep : step s = .next s.clearOuts.fetchDecode := by
      rw [step_decoding hd hl hp, stageNext_running (by rwa [hself]) (by rwa [hself]), hself]
    have hcond (ht : s.thumb = false) : conditionPassed (condOf (s.mem.read32 (alignWord s.pc))) s.cpsr = true := by
      simpa [ht] using hc ht
    obtain ⟨⟨b, hb, hi⟩, hregs, hcpsr, hdead, hdelay, henv⟩ := fetchDecode_stages (s := s.clearOuts) hdec hcond
    refine ⟨_, hstep, ?_, hregs, hcpsr, henv, step_pending _ b i (hdead.trans hd) (hdelay.trans hl) hb hi⟩
    exact congrArg (Vector.get · PReg.pc.index) hregs

end Sys2Proof.Machine
end

section
/-! The statements of spec/41_shifter_alu.md: the barrel shifter, the rotated immediate, the adder and the sixteen operations. The shifter's
columns are equations of `shift` and `shiftBy`, stated once for both amounts; the adder's flags are read off the exact 33-bit sum. -/

namespace Sys2Proof.Machine

/-! ## The shifter's columns -/

@[simp] theorem shift_imm_zero (k : ShiftKind) (v : Word) (cin : Bool) : shift k v 0 cin .imm = shiftImmZero k v cin := rfl

@[simp] theorem shift_reg_zero (k : ShiftKind) (v : Word) (cin : Bool) : shift k v 0 cin .reg = ⟨v, cin⟩ := rfl

/-- From amount 1 on, neither the carry-in nor the form matters (R103). -/
theorem shift_of_ne_zero {s : Nat} (h : s ≠ 0) (k : ShiftKind) (v : Word) (cin : Bool) (form : ShiftForm) :
    shift k v s cin form = shiftBy k v s := if_neg h

theorem shiftBy_lsl_of_le {s : Nat} (h : s ≤ 31) (v : Word) : shiftBy .lsl v s = ⟨v <<< s, v.getLsbD (32 - s)⟩ := if_pos h

theorem shiftBy_lsr_of_le {s : Nat} (h : s ≤ 31) (v : Word) : shiftBy .lsr v s = ⟨v >>> s, v.getLsbD (s - 1)⟩ := if_pos h

theorem shiftBy_asr_of_le {s : Nat} (h : s ≤ 31) (v : Word) : shiftBy .asr v s = ⟨v.sshiftRight s, v.getLsbD (s - 1)⟩ := if_pos h

theorem shiftBy_lsl_of_gt {s : Nat} (h : 32 < s) (v : Word) : shiftBy .lsl v s = ⟨0#32, false⟩ :=
  (if_neg (by omega)).trans (if_neg (by omega))

theorem shiftBy_lsr_of_gt {s : Nat} (h : 32 < s) (v : Word) : shiftBy .lsr v s = ⟨0#32, false⟩ :=
  (if_neg (by omega)).trans (if_neg (by omega))

theorem shiftBy_asr_of_ge {s : Nat} (h : 32 ≤ s) (v : Word) : shiftBy .asr v s = ⟨fill (v.getLsbD 31), v.getLsbD 31⟩ :=
  if_neg (by omega)

theorem shiftBy_ror_of_mod_eq {s : Nat} (h : s % 32 = 0) (v : Word) : shiftBy .ror v s = ⟨v, v.getLsbD 31⟩ := if_pos h

/-- A rotation has period 32 (R102). -/
theorem shiftBy_ror_of_mod_ne {s : Nat} (h : s % 32 ≠ 0) (v : Word) :
    shiftBy .ror v s = ⟨v.rotateRight (s % 32), v.getLsbD (s % 32 - 1)⟩ := by
  rw [← rotate_of_shifts v (s % 32) (by omega) (by omega)]
  exact if_neg h

/-- The column `1 <= s <= 31`, the same in R101 and R102. -/
theorem shift_upTo31 {s : Nat} (h1 : 1 ≤ s) (h31 : s ≤ 31) (v : Word) (cin : Bool) (form : ShiftForm) :
    shift .lsl v s cin form = ⟨v <<< s, v.getLsbD (32 - s)⟩ ∧ shift .lsr v s cin form = ⟨v >>> s, v.getLsbD (s - 1)⟩ ∧
      shift .asr v s cin form = ⟨v.sshiftRight s, v.getLsbD (s - 1)⟩ ∧
      shift .ror v s cin form = ⟨v.rotateRight s, v.getLsbD (s - 1)⟩ := by
  have hmod : s % 32 = s := Nat.mod_eq_of_lt (by omega)
  have hror := shiftBy_ror_of_mod_ne (s := s) (by omega) v
  rw [hmod] at hror
  simp only [shift_of_ne_zero (show s ≠ 0 by omega)]
  exact ⟨shiftBy_lsl_of_le h31 v, shiftBy_lsr_of_le h31 v, shiftBy_asr_of_le h31 v, hror⟩

/-! ## RRX -/

/-- RRX puts the carry-in in the vacated top bit (R101). -/
theorem getLsbD_31_rrx (v : Word) (cin : Bool) : (shiftImmZero .ror v cin).value.getLsbD 31 = cin := by
  simp [shiftImmZero]

/-- The other bits of RRX are the value's, one place down (R101). -/
theorem rrx_below_31 (v : Word) (cin : Bool) : (shiftImmZero .ror v cin).value &&& 0x7FFFFFFF#32 = v >>> 1 := by
  apply word_ext; intro i hi
  have hm : (0x7FFFFFFF#32).getLsbD i = decide (i < 31) := by interval_cases i <;> rfl
  simp only [shiftImmZero, BitVec.getLsbD_and, BitVec.getLsbD_or, BitVec.getLsbD_shiftLeft, BitVec.getLsbD_ushiftRight, hm]
  by_cases h : i < 31
  · simp [h]
  · have : i = 31 := by omega
    subst this; simp

/-- Settles O7: amount 0 has its own meanings, RRX among them, and the rest is the column `1 <= s <= 31`. -/
theorem shiftImmediate : Obligations.ShiftImmediate := by
  intro v n cin s
  refine ⟨fun h0 => ?_, fun h1 => shift_upTo31 h1 (Nat.le_of_lt_succ n.isLt) v cin .imm⟩
  rw [h0]
  exact ⟨rfl, rfl, rfl, rfl, getLsbD_31_rrx v cin, rrx_below_31 v cin⟩

/-- Settles O8, column by column of R102. -/
theorem shiftRegister : Obligations.ShiftRegister := by
  intro v n cin s
  refine ⟨fun h0 k => ?_, fun h1 h31 => shift_upTo31 h1 h31 v cin .reg, fun h32 => ?_, fun h => ?_, fun h => ?_, fun h hm => ?_,
    fun h hm => ?_⟩
  · rw [h0, shift_reg_zero]
  · rw [h32]; exact ⟨rfl, rfl, rfl⟩
  · have hs : s ≠ 0 := by omega
    exact ⟨(shift_of_ne_zero hs ..).trans (shiftBy_lsl_of_gt h v), (shift_of_ne_zero hs ..).trans (shiftBy_lsr_of_gt h v)⟩
  · exact (shift_of_ne_zero (by omega) ..).trans (shiftBy_asr_of_ge h v)
  · exact (shift_of_ne_zero (by omega) ..).trans (shiftBy_ror_of_mod_eq hm v)
  · exact (shift_of_ne_zero (by omega) ..).trans (shiftBy_ror_of_mod_ne hm v)

/-! ## The adder -/

/-- The 33-bit sum is exact (R108). -/
theorem sum33_toNat (a b : Word) (c : Bool) :
    (a.setWidth 33 + b.setWidth 33 + (BitVec.ofBool c).setWidth 33).toNat = a.toNat + b.toNat + c.toNat := by
  have ha := a.isLt
  have hb := b.isLt
  have hc := c.toNat_le
  simp only [BitVec.toNat_add, BitVec.toNat_setWidth, ofBool_toNat]
  omega

theorem addWithCarry_r_toNat (a b : Word) (c : Bool) : (addWithCarry a b c).r.toNat = (a.toNat + b.toNat + c.toNat) % 2 ^ 32 := by
  rw [addWithCarry, BitVec.toNat_setWidth, sum33_toNat]

theorem addWithCarry_r (a b : Word) (c : Bool) : (addWithCarry a b c).r = a + b + BitVec.ofNat 32 c.toNat := by
  apply BitVec.eq_of_toNat_eq
  simp [addWithCarry_r_toNat]

/-- A word's bit 31 is the top bit of its number. -/
theorem getLsbD_31 (a : Word) : a.getLsbD 31 = decide (2 ^ 31 ≤ a.toNat) := BitVec.getLsbD_last a

theorem addWithCarry_c_iff (a b : Word) (c : Bool) : (addWithCarry a b c).c = true ↔ 2 ^ 32 ≤ a.toNat + b.toNat + c.toNat := by
  rw [← sum33_toNat]
  exact (Bool.eq_iff_iff.1 (BitVec.getLsbD_last _)).trans decide_eq_true_iff

/-- V says that the operands have one sign and the result the other (R108). -/
theorem addWithCarry_v_iff (a b : Word) (c : Bool) :
    (addWithCarry a b c).v = true ↔ a.getLsbD 31 = b.getLsbD 31 ∧ (addWithCarry a b c).r.getLsbD 31 ≠ a.getLsbD 31 := by
  have hv : (addWithCarry a b c).v = (!(a.getLsbD 31 ^^ b.getLsbD 31) && (a.getLsbD 31 ^^ (addWithCarry a b c).r.getLsbD 31)) := by
    simp [addWithCarry]
  rw [hv]
  cases a.getLsbD 31 <;> cases b.getLsbD 31 <;> simp

/-- V says that the exact signed sum leaves the range (R108). -/
theorem addWithCarry_v_iff_range (a b : Word) (c : Bool) : (addWithCarry a b c).v = true ↔
    a.toInt + b.toInt + (c.toNat : Int) < -2 ^ 31 ∨ 2 ^ 31 ≤ a.toInt + b.toInt + (c.toNat : Int) := by
  have ha := a.isLt
  have hb := b.isLt
  have hc := c.toNat_le
  have hr := addWithCarry_r_toNat a b c
  rw [addWithCarry_v_iff, getLsbD_31, getLsbD_31, getLsbD_31, hr, Ne, decide_eq_decide, decide_eq_decide,
    BitVec.toInt_eq_toNat_cond, BitVec.toInt_eq_toNat_cond]
  split <;> split <;> omega

/-! ## Subtraction through the adder -/

theorem addWithCarry_not_r (a b : Word) : (addWithCarry a (~~~b) true).r = a - b := by
  rw [addWithCarry_r, BitVec.sub_eq_add_neg, BitVec.neg_eq_not_add, BitVec.add_assoc]; rfl

/-- The carry of a subtraction is the absence of a borrow (R108). -/
theorem addWithCarry_not_c_iff (a b : Word) : (addWithCarry a (~~~b) true).c = true ↔ b.toNat ≤ a.toNat := by
  have hb := b.isLt
  rw [addWithCarry_c_iff, BitVec.toNat_not, Bool.toNat_true]
  omega

/-- The complement of a word as a signed number. -/
theorem toInt_not_word (b : Word) : (~~~b).toInt = -b.toInt - 1 := by
  have hb := b.isLt
  rw [BitVec.toInt_eq_toNat_cond, BitVec.toInt_eq_toNat_cond, BitVec.toNat_not]
  split <;> split <;> omega

/-- V of a subtraction says that the exact signed difference leaves the range (R108). -/
theorem addWithCarry_not_v_iff (a b : Word) :
    (addWithCarry a (~~~b) true).v = true ↔ a.toInt - b.toInt < -2 ^ 31 ∨ 2 ^ 31 ≤ a.toInt - b.toInt := by
  have hsum : a.toInt + (~~~b).toInt + ((true.toNat : Nat) : Int) = a.toInt - b.toInt := by
    rw [toInt_not_word, Bool.toNat_true]; omega
  rw [addWithCarry_v_iff_range, hsum]

/-- Settles O10: result and flags of the exact sum, and what they say of a difference. -/
theorem adder : Obligations.Adder :=
  ⟨fun a b c => ⟨addWithCarry_r a b c, addWithCarry_c_iff a b c, addWithCarry_v_iff_range a b c, addWithCarry_v_iff a b c⟩,
    fun a b => ⟨addWithCarry_not_r a b, addWithCarry_not_c_iff a b, addWithCarry_not_v_iff a b⟩⟩

/-! ## The immediate operand and the sixteen operations -/

/-- Settles O9: the two branches of the carry of R106. -/
theorem immediateOperand : Obligations.ImmediateOperand :=
  fun _ _ _ => ⟨rfl, fun h => if_pos h, fun h => if_neg h⟩

/-- The four operations that compare write no register (R111). -/
theorem AluOp.writesRd_eq_false_iff (op : AluOp) : op.writesRd = false ↔ op = .tst ∨ op = .teq ∨ op = .cmp ∨ op = .cmn := by
  cases op <;> decide

/-- Settles O11: each row is the arm of `AluOp.eval` for its operation. -/
theorem aluTable : Obligations.AluTable :=
  fun _ _ _ _ _ => ⟨rfl, rfl, rfl, rfl, rfl, rfl, rfl, rfl, rfl, rfl, rfl, rfl, rfl, rfl, rfl, rfl, AluOp.writesRd_eq_false_iff⟩

end Sys2Proof.Machine
end

section
/-! The statements of spec/42_arm_data_processing.md: a register written, flags alone, a branch and an exception return. Each is the run
`dataProcessing` makes on the operands of the form, followed by what the end of an instruction leaves of that run's state. -/

namespace Sys2Proof.Machine

/-! ## The end of an instruction that redirects nothing -/

/-- What an instruction that redirects nothing answers: the run's state, with `pc` advanced (R89). -/
theorem advance_spec (r : Run) (n : Nat) (hr : r.redirected = false) :
    ∃ t, r.finish n = .next t ∧ t.pc = r.st.pc + r.width ∧ (∀ p, p ≠ .pc → t.reg p = r.st.reg p) ∧ t.cpsr = r.st.cpsr ∧
      t.mem = r.st.mem ∧ SystemKept r.st t ∧ t.outs = r.st.outs ∧ t.delay = r.origin.extraCycles false n := by
  refine ⟨_, Run.finish_eq r n, ?_, fun p hp => Run.reg_result r n hp, Run.cpsr_result r n, Run.mem_result r n, ?_,
    Run.outs_result r n, ?_⟩
  · rw [Run.pc_result, hr, if_neg Bool.false_ne_true]
  · simp [SystemKept, SpsrsKept, StepperKept, StagingKept]
  · rw [Run.delay_result, hr]

theorem systemKept_trans {a b c : State} (h : SystemKept a b) (h' : SystemKept b c) : SystemKept a c := by
  simp_all [SystemKept, SpsrsKept, StepperKept, StagingKept]

theorem systemKept_setX (s : State) (i : Reg) (v : Word) : SystemKept s (s.setX i v) := by
  simp [SystemKept, SpsrsKept, StepperKept, StagingKept]

/-! ## Flags by the S bit -/

/-- The flags of a result written, where the S bit asks for it (R120). -/
def State.setAluFlagsIf (s : State) (setFlags : Bool) (o : AluOut) : State := if setFlags then s.setAluFlags o else s

@[simp] theorem State.setAluFlagsIf_true (s : State) (o : AluOut) : s.setAluFlagsIf true o = s.setAluFlags o := rfl
@[simp] theorem State.setAluFlagsIf_false (s : State) (o : AluOut) : s.setAluFlagsIf false o = s := rfl
@[simp] theorem State.reg_setAluFlagsIf (s : State) (b : Bool) (o : AluOut) (q : PReg) : (s.setAluFlagsIf b o).reg q = s.reg q := by
  cases b <;> rfl
@[simp] theorem State.pc_setAluFlagsIf (s : State) (b : Bool) (o : AluOut) : (s.setAluFlagsIf b o).pc = s.pc := by
  cases b <;> rfl
@[simp] theorem State.mem_setAluFlagsIf (s : State) (b : Bool) (o : AluOut) : (s.setAluFlagsIf b o).mem = s.mem := by
  cases b <;> rfl
@[simp] theorem State.outs_setAluFlagsIf (s : State) (b : Bool) (o : AluOut) : (s.setAluFlagsIf b o).outs = s.outs := by
  cases b <;> rfl

theorem systemKept_setAluFlagsIf (s : State) (b : Bool) (o : AluOut) : SystemKept s (s.setAluFlagsIf b o) := by
  cases b <;> exact systemKept_refl s

/-! ## The run of an instruction, by its operation -/

/-- What a data-processing instruction runs, with the cycles of its row of R343's table. -/
theorem exec_dpInstr_cycles (op : AluOp) (c : Cond) (setFlags : Bool) (rn rd : Reg) (f : DpForm) {s : State} (ht : s.thumb = false) :
    ∃ sf b, (op.writesRd = true → sf = setFlags) ∧
      (∀ intoPc, s.aluCycles b intoPc = f.shiftCycles s + if intoPc then s.params.cycles.pcWrite else 0) ∧
      exec (dpInstr op c setFlags rn rd f) s = dataProcessing op sf rd (f.first s rn) (f.second s) b s := by
  obtain ⟨sf, b, hsf, hreg, hno, he⟩ := exec_dpInstr op c setFlags rn rd f s ht
  refine ⟨sf, b, hsf, fun intoPc => ?_, he⟩
  cases b with
  | true => rw [hreg rfl]; rfl
  | false => rw [hno rfl]; rfl

/-- An operation that writes Rd and is no exception return: the result, then the flags with S (R120). -/
theorem exec_dpInstr_write {op : AluOp} (hw : op.writesRd = true) (c : Cond) {setFlags : Bool} (rn : Reg) {rd : Reg} (f : DpForm)
    {s : State} (ht : s.thumb = false) (h : setFlags = false ∨ rd ≠ 15#4) :
    exec (dpInstr op c setFlags rn rd f) s =
      (((Run.start s).setX rd (f.out op s rn).r).map (·.setAluFlagsIf setFlags (f.out op s rn))).finish
        (f.shiftCycles s + if rd = 15#4 then s.params.cycles.pcWrite else 0) := by
  obtain ⟨sf, b, hsf, hcyc, he⟩ := exec_dpInstr_cycles op c setFlags rn rd f ht
  obtain rfl := hsf hw
  rw [he, dataProcessing_write hw sf _ _ _ _ h, hcyc]
  simp only [decide_eq_true_eq]
  cases sf <;> rfl

/-- An operation that compares: its flags alone, whatever `setFlags` and Rd (R122). -/
theorem exec_dpInstr_compare {op : AluOp} (hw : op.writesRd = false) (c : Cond) (setFlags : Bool) (rn rd : Reg) (f : DpForm)
    {s : State} (ht : s.thumb = false) :
    exec (dpInstr op c setFlags rn rd f) s =
      ((Run.start s).map (·.setAluFlags (f.out op s rn))).finish (f.shiftCycles s) := by
  obtain ⟨sf, b, -, hcyc, he⟩ := exec_dpInstr_cycles op c setFlags rn rd f ht
  rw [he, dataProcessing_compare hw, hcyc]
  rfl

/-- Rd = 15 with S: the exception return, from the state with the flags written (R121). -/
theorem exec_dpInstr_return {op : AluOp} (hw : op.writesRd = true) (c : Cond) (rn : Reg) (f : DpForm) {s : State}
    (ht : s.thumb = false) :
    exec (dpInstr op c true rn 15#4 f) s =
      finishOrFault (((Run.start s).map (·.setAluFlags (f.out op s rn))).exceptionReturn (f.out op s rn).r)
        (f.shiftCycles s + s.params.cycles.pcWrite) := by
  obtain ⟨sf, b, hsf, hcyc, he⟩ := exec_dpInstr_cycles op c true rn 15#4 f ht
  obtain rfl := hsf hw
  rw [he, dataProcessing_return hw, hcyc]
  rfl

/-! ## Exception return -/

/-- The status word an exception return restores, once the flags are written: the mode's SPSR, or the CPSR with those flags (R21, R121). -/
theorem spsrCur_setAluFlags (s : State) (o : AluOut) :
    (s.setAluFlags o).spsrCur = if s.bankMode.hasSpsr then s.spsrOf s.bankMode
      else Psr.withFlags s.cpsr (o.r.getLsbD 31) (o.r == 0#32) o.c o.v := by
  rw [spsrCur_eq, State.bankMode_setAluFlags, State.cpsr_setAluFlags]
  cases s.bankMode <;> rfl

/-- What an exception return answers when it resolves its mode: CPSR the status word restored, the bank map of its mode, the target
aligned by its T, and the rest as it was (R121). -/
theorem exceptionReturn_spec (r : Run) (target : Word) (n : Nat)
    (h : Mode.ofBits (Psr.mode r.st.spsrCur) ≠ none ∨ r.st.params.strict = false) :
    ∃ t, finishOrFault (r.exceptionReturn target) n = .next t ∧ t.cpsr = r.st.spsrCur ∧
      t.bankMode = (Mode.ofBits (Psr.mode r.st.spsrCur)).getD r.st.bankMode ∧
      t.pc = target &&& (if Psr.t r.st.spsrCur then 0xFFFFFFFE#32 else 0xFFFFFFFC#32) ∧ (∀ p, p ≠ .pc → t.reg p = r.st.reg p) ∧
      t.mem = r.st.mem ∧ SpsrsKept r.st t ∧ StepperKept r.st t ∧ t.outs = r.st.outs ∧ t.delay = r.origin.extraCycles true n := by
  rw [exceptionReturn_ok r target h]
  obtain ⟨t, hfin, hpc, hreg, hcpsr, hmem, ⟨hspsrs, hbank, hstep⟩, houts, hdelay⟩ :=
    jump_spec (r.map _) target n _ (alignTarget_eq _ target)
  exact ⟨t, hfin, hcpsr, hbank, hpc, hreg, hmem, hspsrs, hstep, houts, hdelay⟩

/-! ## The statements -/

/-- Settles O12: the run writes Rd and, with S, the flags, and redirects nothing. -/
theorem dataProcessingWritesRegister : Obligations.DataProcessingWritesRegister := by
  intro op c setFlags rn rd f s ht hw hrd
  obtain ⟨t, hfin, hpc, hreg, hcpsr, hmem, hsys, houts, hdelay⟩ := advance_spec
    (((Run.start s).setX rd (f.out op s rn).r).map (·.setAluFlagsIf setFlags (f.out op s rn)))
    (f.shiftCycles s + if rd = 15#4 then s.params.cycles.pcWrite else 0) (by simp [hrd])
  simp only [Run.st_map, Run.st_setX, Run.st_start, Run.width_map, Run.width_setX, Run.width_start, Run.origin_map, Run.origin_setX,
    Run.origin_start, State.pc_setAluFlagsIf, State.reg_setAluFlagsIf, State.mem_setAluFlagsIf, State.outs_setAluFlagsIf]
    at hpc hreg hcpsr hmem hsys houts hdelay
  have hkept : SystemKept s t := systemKept_trans (systemKept_trans (systemKept_setX ..) (systemKept_setAluFlagsIf ..)) hsys
  have ⟨_, hbank, _⟩ := hkept
  refine ⟨t, (exec_dpInstr_write hw c rn f ht (.inr hrd)).trans hfin, ?_, ?_, ?_, ?_, fun p hp hm => ?_, fun a => ?_, hkept, ?_, ?_⟩
  · rw [State.x_eq, hbank, hreg _ (phys_ne_pc _ hrd), State.reg_setX, if_pos rfl, if_neg hrd]
  · rintro rfl; exact flagsAre_of_withFlags s t _ (by rw [hcpsr]; simp)
  · rintro rfl; rw [hcpsr]; simp
  · rw [hpc, State.pc_setX, if_neg hrd, width_arm ht]
  · rw [hreg p hp, State.reg_setX_of_ne _ _ _ (by simpa using hm)]
  · rw [hmem, State.mem_setX]
  · rw [houts, State.outs_setX]
  · rw [hdelay, if_neg hrd, Nat.add_zero]

/-- Settles O13: the run writes the flags alone. -/
theorem dataProcessingCompares : Obligations.DataProcessingCompares := by
  intro op c setFlags rn rd f s ht hw
  obtain ⟨t, hfin, hpc, hreg, hcpsr, hmem, hsys, houts, hdelay⟩ := advance_spec
    ((Run.start s).map (·.setAluFlags (f.out op s rn))) (f.shiftCycles s) rfl
  refine ⟨t, (exec_dpInstr_compare hw c setFlags rn rd f ht).trans hfin, flagsAre_of_withFlags s t _ hcpsr, ?_, fun p hp _ => hreg p hp,
    fun a => congrArg (Memory.read8 · a) hmem, hsys, houts, hdelay⟩
  rw [hpc, Run.width_map, Run.width_start, width_arm ht]; rfl

/-- Settles O14: without S the run is the jump alone. -/
theorem dataProcessingBranches : Obligations.DataProcessingBranches := by
  intro op c rn f s ht hw
  obtain ⟨t, hfin, hpc, hreg, hcpsr, hmem, hsys, houts, hdelay⟩ :=
    jump_spec (Run.start s) (f.out op s rn).r (f.shiftCycles s + s.params.cycles.pcWrite) _ (alignTarget_arm ht _)
  exact ⟨t, (exec_dpInstr_write hw c rn f ht (.inl rfl)).trans hfin, hpc, hcpsr, fun p hp _ => hreg p hp,
    fun a => congrArg (Memory.read8 · a) hmem, hsys, houts, hdelay⟩

/-- Settles O15, by whether the exception return resolves the mode of the status word it restores. -/
theorem dataProcessingReturns : Obligations.DataProcessingReturns := by
  intro op c rn f s ht hw o saved i
  have hexec := exec_dpInstr_return hw c rn f ht
  have hsaved : ((Run.start s).map (·.setAluFlags o)).st.spsrCur = saved := spsrCur_setAluFlags s o
  refine ⟨fun hnone hstrict => ?_, fun hok => ?_⟩
  · rw [hexec, exceptionReturn_error _ _ (by rwa [hsaved]) hstrict, hsaved]; rfl
  · obtain ⟨t, hfin, hcpsr, hbank, hpc, hreg, hmem, hspsrs, hstep, houts, hdelay⟩ :=
      exceptionReturn_spec ((Run.start s).map (·.setAluFlags o)) o.r (f.shiftCycles s + s.params.cycles.pcWrite) (by rwa [hsaved])
    rw [hsaved] at hcpsr hbank hpc
    exact ⟨t, hexec.trans hfin, hcpsr, hbank, hpc, fun p hp _ => hreg p hp, fun a => congrArg (Memory.read8 · a) hmem, hspsrs, hstep,
      houts, hdelay⟩

end Sys2Proof.Machine
end

section
/-! The statements of spec/43_arm_multiply.md: the short and the long multiplies. Each meaning is a result written
(`multiplyShort_spec`, `multiplyLong_spec`); what is left to show is that the result the model computes over words is the exact
number of the rule modulo 2^32 or 2^64. -/

namespace Sys2Proof.Machine

/-- In ARM state the operands a multiply reads are those the claims read (R88, R157). -/
theorem xop_eq_armOperand {s : State} (ht : s.thumb = false) : s.xop = s.armOperand := funext (xop_arm ht)

/-! ## The results as exact numbers -/

/-- The 32-bit result of MUL and MLA is the exact number modulo 2^32 (R151, R152). -/
theorem ofNat_product_sum (a b : Word) (n : Nat) : BitVec.ofNat 32 (a.toNat * b.toNat + n) = a * b + BitVec.ofNat 32 n := by
  rw [BitVec.ofNat_add, BitVec.ofNat_mul, BitVec.ofNat_toNat, BitVec.ofNat_toNat, BitVec.setWidth_eq, BitVec.setWidth_eq]

/-- The 64-bit product of a long multiply, by its signedness (R153, R155). -/
def longProduct (isSigned : Bool) (a b : Word) : BitVec 64 := if isSigned then productSigned a b else productUnsigned a b

/-- The 64-bit result of a long multiply is the exact number modulo 2^64 (R153 to R156). -/
theorem ofInt_longProduct_sum (isSigned : Bool) (a b : Word) (n : Int) :
    BitVec.ofInt 64 ((if isSigned then a.toInt * b.toInt else (a.toNat : Int) * (b.toNat : Int)) + n) =
      longProduct isSigned a b + BitVec.ofInt 64 n := by
  cases isSigned with
  | false => exact (BitVec.ofInt_add _ _).trans (congrArg (· + _) (productUnsigned_eq a b).symm)
  | true => exact (BitVec.ofInt_add _ _).trans (congrArg (· + _) (productSigned_eq a b).symm)

/-! ## What each multiply writes -/

theorem exec_mul (c : Cond) (setFlags : Bool) (rd rn rs rm : Reg) (s : State) :
    exec (.mul c setFlags rd rn rs rm) s =
      multiplyShort setFlags rd (s.xop rm * s.xop rs) (multiplierCycles (s.xop rs) true + s.params.cycles.mul) s := rfl

theorem exec_mla (c : Cond) (setFlags : Bool) (rd rn rs rm : Reg) (s : State) :
    exec (.mla c setFlags rd rn rs rm) s =
      multiplyShort setFlags rd (s.xop rm * s.xop rs + s.xop rn) (multiplierCycles (s.xop rs) true + s.params.cycles.mla) s := rfl

/-- MUL and MLA write the exact number modulo 2^32 (R151, R152). -/
theorem exec_multiplyShort (c : Cond) (setFlags acc : Bool) (rd rn rs rm : Reg) {s : State} (ht : s.thumb = false) :
    exec (if acc then .mla c setFlags rd rn rs rm else .mul c setFlags rd rn rs rm) s =
      multiplyShort setFlags rd
        (BitVec.ofNat 32 ((s.armOperand rm).toNat * (s.armOperand rs).toNat + if acc then (s.armOperand rn).toNat else 0))
        (multiplierCycles (s.armOperand rs) true + if acc then s.params.cycles.mla else s.params.cycles.mul) s := by
  rw [ofNat_product_sum, ← xop_eq_armOperand ht]
  cases acc with
  | false => simp only [Bool.false_eq_true, if_false, exec_mul, BitVec.add_zero]
  | true => simp only [if_true, exec_mla, BitVec.ofNat_toNat, BitVec.setWidth_eq]

/-- The long multiply of a signedness, with or without accumulation (R153 to R156). -/
def longMultiply (isSigned acc : Bool) (c : Cond) (setFlags : Bool) (rdHi rdLo rs rm : Reg) : Instr :=
  match isSigned, acc with
  | false, false => .umull c setFlags rdHi rdLo rs rm
  | false, true => .umlal c setFlags rdHi rdLo rs rm
  | true, false => .smull c setFlags rdHi rdLo rs rm
  | true, true => .smlal c setFlags rdHi rdLo rs rm

/-- A long multiply without accumulation writes its product (R153, R155). -/
theorem exec_longMultiply_product (isSigned : Bool) (c : Cond) (setFlags : Bool) (rdHi rdLo rs rm : Reg) (s : State) :
    exec (longMultiply isSigned false c setFlags rdHi rdLo rs rm) s =
      multiplyLong setFlags rdHi rdLo (longProduct isSigned (s.xop rm) (s.xop rs))
        (multiplierCycles (s.xop rs) isSigned + s.params.cycles.mull) s := by
  cases isSigned <;> rfl

/-- A long multiply with accumulation writes the sum of its product and the old RdHi : RdLo (R154, R156). -/
theorem exec_longMultiply_sum (isSigned : Bool) (c : Cond) (setFlags : Bool) (rdHi rdLo rs rm : Reg) (s : State) :
    exec (longMultiply isSigned true c setFlags rdHi rdLo rs rm) s =
      multiplyLong setFlags rdHi rdLo (longProduct isSigned (s.xop rm) (s.xop rs) + s.accumulator rdHi rdLo)
        (multiplierCycles (s.xop rs) isSigned + s.params.cycles.mlal) s := by
  cases isSigned <;> rfl

/-- The long multiplies write the exact number modulo 2^64 (R153 to R156). -/
theorem exec_longMultiply (isSigned acc : Bool) (c : Cond) (setFlags : Bool) (rdHi rdLo rs rm : Reg) {s : State}
    (ht : s.thumb = false) :
    exec (longMultiply isSigned acc c setFlags rdHi rdLo rs rm) s =
      multiplyLong setFlags rdHi rdLo
        (BitVec.ofInt 64 ((if isSigned then (s.armOperand rm).toInt * (s.armOperand rs).toInt
          else ((s.armOperand rm).toNat : Int) * ((s.armOperand rs).toNat : Int)) +
          if acc then ((s.armOperand rdHi ++ s.armOperand rdLo).toNat : Int) else 0))
        (multiplierCycles (s.armOperand rs) isSigned + if acc then s.params.cycles.mlal else s.params.cycles.mull) s := by
  rw [ofInt_longProduct_sum, ← xop_eq_armOperand ht]
  cases acc with
  | false => simp only [Bool.false_eq_true, if_false, exec_longMultiply_product, BitVec.ofInt_ofNat, BitVec.add_zero]
  | true =>
    simp only [if_true, exec_longMultiply_sum, State.accumulator, BitVec.ofInt_natCast, BitVec.ofNat_toNat, BitVec.setWidth_eq]

end Sys2Proof.Machine

/-! ## The statements (in a namespace of their own: the model's operations have the same names) -/

namespace Sys2Proof.Machine.Multiplies

/-- Settles O16: MUL and MLA write the exact number modulo 2^32, and a short multiply leaves the rest. -/
theorem multiplyShort : Obligations.MultiplyShort := by
  intro c setFlags acc rd rn rs rm s ht
  exact multiplyShort_spec _ s ht setFlags rd _ _ (exec_multiplyShort c setFlags acc rd rn rs rm ht)

/-- Settles O17: the long multiplies write the exact number modulo 2^64, and a long multiply leaves the rest. -/
theorem multiplyLong : Obligations.MultiplyLong := by
  intro c setFlags isSigned acc rdHi rdLo rs rm s ht
  exact multiplyLong_spec _ s ht setFlags rdHi rdLo _ _ (exec_longMultiply isSigned acc c setFlags rdHi rdLo rs rm ht)

end Sys2Proof.Machine.Multiplies
end

section
/-! The statements of spec/44_arm_load_store.md: addressing, loads, stores and swap. Every encoding of a load is one load of its kind at
its address, every encoding of a store one store of its width; what that load or store leaves is `loadTransfer_spec` and
`storeTransfer_spec`. -/

namespace Sys2Proof.Machine

/-! ## Addressing -/

/-- An 8-bit offset in two halves, as a number (R65, R170). -/
theorem setWidth_append_nibbles (immH immL : BitVec 4) :
    (immH ++ immL).setWidth 32 = BitVec.ofNat 32 (16 * immH.toNat + immL.toNat) := by
  rw [setWidth_eq_ofNat 8 (immH ++ immL) (by decide), BitVec.toNat_append,
    ← Nat.shiftLeft_add_eq_or_of_lt immL.isLt, Nat.shiftLeft_eq, Nat.mul_comm]

/-- Settles O18: every form is the indexing of R160 on its own offset. -/
theorem transferAddressing : Obligations.TransferAddressing := by
  intro s p u w rn ht
  have hx := xop_eq_armOperand ht
  refine ⟨fun imm12 => ?_, fun n k rm => ?_, fun immH immL => ?_, fun rm => ?_⟩
  · rw [Offset.addressed, State.addressImm, indexed_eq, hx, setWidth_eq_ofNat 12 imm12 (by decide)]
  · rw [Offset.addressed, State.addressReg, indexed_eq, State.offsetShifted, State.operandShiftImm, hx]
  · rw [HalfOffset.addressed, State.addressHalfImm, indexed_eq, hx, setWidth_append_nibbles]
  · rw [HalfOffset.addressed, State.addressHalfReg, indexed_eq, hx]

/-! ## Loads -/

/-- The word and byte loads: one load of the kind, in every addressing form (R161, R163, R165),
by the rows of `transferInstr`. -/
theorem exec_loadInstr (byte : Bool) (o : Offset) (c : Cond) (p u w : Bool) (rn rd : Reg) (s : State) :
    exec (transferInstr true byte o c p u w rn rd) s =
      loadTransfer rn rd (o.addressed s p u w rn)
        (LoadKind.access s (if byte then .byte else .word) (o.addressed s p u w rn).addr) s := by
  cases byte <;> cases o <;> cases p <;> cases w <;> rfl

/-- The halfword and signed loads: a refusal under R45, or one load of the kind (R171, R173, R174). -/
theorem exec_halfLoadInstr {k : LoadKind} {o : HalfOffset} {c : Cond} {p u w : Bool} {rn rd : Reg} {i : Instr}
    (h : halfLoadInstr k o c p u w rn rd = some i) (s : State) :
    exec i s = if k.refuses s (o.addressed s p u w rn).addr then .refused .misalignedHalfword
      else loadTransfer rn rd (o.addressed s p u w rn) (LoadKind.access s k (o.addressed s p u w rn).addr) s := by
  cases k <;> cases o <;> cases h <;> rfl

/-- A load's access stores nothing. -/
theorem LoadKind.access_stores (s : State) (k : LoadKind) (a b : Word) : ¬ (LoadKind.access s k a).call.stores b := by
  rw [LoadKind.access_eq]; exact k.call_stores s.mem a b

/-- Settles O19: the load of a word or a byte. -/
theorem armLoads : Obligations.ArmLoads := by
  intro byte o c p u w rn rd s ht
  rw [exec_loadInstr]
  simpa only [LoadKind.access_eq, alignTarget_arm ht] using
    loadTransfer_spec s rn rd (o.addressed s p u w rn) _ _ (width_arm ht) (LoadKind.access_stores s _ _)

/-- Settles O21: the load of a halfword or a signed byte, where it is not refused. -/
theorem armHalfLoads : Obligations.ArmHalfLoads := by
  intro k o c p u w rn rd i s ht hi a v
  refine ⟨fun hr => ?_, fun hr => ?_⟩
  · rw [exec_halfLoadInstr hi, if_pos hr]
  · rw [exec_halfLoadInstr hi, if_neg (Bool.eq_false_iff.mp hr)]
    simpa only [LoadKind.access_eq, alignTarget_arm ht] using
      loadTransfer_spec s rn rd a _ _ (width_arm ht) (LoadKind.access_stores s k _)

/-! ## Stores -/

/-- The word and byte stores: one store of the width, in every addressing form (R162, R164, R165),
by the rows of `transferInstr`. -/
theorem exec_storeInstr (byte : Bool) (o : Offset) (c : Cond) (p u w : Bool) (rn rd : Reg) (s : State) :
    exec (transferInstr false byte o c p u w rn rd) s =
      storeTransfer rn (o.addressed s p u w rn)
        (Size.stored s (if byte then .byte else .word) (o.addressed s p u w rn).addr (s.storeValue rd)) s := by
  cases byte <;> cases o <;> cases p <;> cases w <;> rfl

/-- The halfword store: one store of the width (R172). -/
theorem exec_halfStoreInstr (o : HalfOffset) (c : Cond) (p u w : Bool) (rn rd : Reg) (s : State) :
    exec (halfStoreInstr o c p u w rn rd) s =
      storeTransfer rn (o.addressed s p u w rn) (Size.stored s .half (o.addressed s p u w rn).addr (s.storeValue rd)) s := by
  cases o <;> rfl

/-- Settles O20: the store of a word or a byte. -/
theorem armStores : Obligations.ArmStores := by
  intro byte o c p u w rn rd s ht hwf
  rw [exec_storeInstr, storeValue_arm ht]
  simpa only [alignTarget_arm ht] using
    storeTransfer_spec s rn (o.addressed s p u w rn) _ _ (s.armStored rd) hwf _ (width_arm ht)

/-- Settles O22: the store of a halfword. -/
theorem armHalfStores : Obligations.ArmHalfStores := by
  intro o c p u w rn rd s ht hwf
  rw [exec_halfStoreInstr, storeValue_arm ht]
  simpa only [alignTarget_arm ht] using
    storeTransfer_spec s rn (o.addressed s p u w rn) .half _ (s.armStored rd) hwf _ (width_arm ht)

/-! ## Swap -/

/-- SWP and SWPB: a load and a store at one address (R176, R177). -/
theorem exec_swapInstr (byte : Bool) (c : Cond) (rn rd rm : Reg) (s : State) :
    exec (if byte then .swpb c rn rd rm else .swp c rn rd rm) s =
      swapTransfer rd (LoadKind.access s (if byte then .byte else .word) (s.xop rn))
        (fun t => Size.stored t (if byte then .byte else .word) (s.xop rn) (s.xop rm)) s := by
  cases byte <;> rfl

/-- The run of a swap: the two calls, then Rd. -/
theorem swapTransfer_access (rd : Reg) (k : LoadKind) (z : Size) (a v : Word) (s : State) :
    swapTransfer rd (LoadKind.access s k a) (fun t => Size.stored t z a v) s =
      (((Run.start s).map fun t => (t.called (k.call s.mem a)).called (z.call a v)).setX rd (k.value s.mem a)).finish
        s.params.cycles.swap := by
  simp only [swapTransfer, Size.stored_eq, LoadKind.access_eq]
  rfl

/-- What a store after one other call reads back as, where no reaction to either wrote its bytes. -/
theorem Size.readBack_second_call {e : Environment} (h : e.mem.wf) (c : OutEvent) (z : Size) (a v : Word)
    (hu : ∀ k < z.bytes, ∀ r ∈ e.reactions.take 2, ∀ d ∈ r.writes, d.1 ≠ z.storeAddress a + BitVec.ofNat 32 k) :
    z.readBack (e.replay [c, z.call a v]).mem (z.storeAddress a) = z.part v := by
  rw [← Size.part_part]
  exact Size.readBack_replay (Environment.wf_answer h c) z _ _ [] (by simp) fun k hk r hr =>
    hu k hk r (e.reactions_answer c 1 r hr)

/-- What is kept from the state after a port call is kept from the state before it (R41). -/
theorem coreKept_of_called {s t : State} {c : OutEvent} (h : CoreKept (s.called c) t) : CoreKept s t := by
  obtain ⟨hspsrs, hbank, hstaging⟩ := h
  exact ⟨hspsrs, hbank, hstaging⟩

/-- What an instruction that ends with a register write answers: the register, or `pc` for r15, and the rest of the run's state
(R89, R90). -/
theorem setX_finish_spec (r : Run) (hr : r.redirected = false) (i : Reg) (v : Word) (n : Nat) :
    ∃ t, (r.setX i v).finish n = .next t ∧ (i ≠ 15#4 → t.x i = v) ∧
      t.pc = (if i = 15#4 then r.st.alignTarget v else r.st.pc + r.width) ∧ RegsKept r.st t [phys r.st.bankMode i] ∧
      t.cpsr = r.st.cpsr ∧ CoreKept r.st t ∧ t.outs = r.st.outs ∧ t.environment = r.st.environment ∧
      t.delay = r.origin.extraCycles (i = 15#4) n := by
  refine ⟨_, Run.finish_eq _ n, fun hi => ?_, ?_, fun p hp hm => ?_, ?_, ?_, ?_, ?_, ?_⟩
  · rw [State.x_eq, Run.bankMode_result, Run.st_setX, State.bankMode_setX, Run.reg_result _ _ (phys_ne_pc _ hi), Run.st_setX,
      State.reg_setX, if_pos rfl, if_neg hi]
  · by_cases hi : i = 15#4 <;> simp [hi, hr]
  · rw [Run.reg_result _ _ hp, Run.st_setX, State.reg_setX, if_neg (by simpa using hm)]
  · simp
  · simp [CoreKept, SpsrsKept, StagingKept]
  · simp
  · simp
  · simp [hr]

/-- Settles O23: the two calls and the write of Rd. -/
theorem swap : Obligations.Swap := by
  intro byte c rn rd rm s ht hwf
  rw [exec_swapInstr, swapTransfer_access, xop_eq_armOperand ht]
  generalize (if byte then Size.byte else Size.word) = z
  generalize (if byte then LoadKind.byte else LoadKind.word) = k
  generalize s.armOperand rn = a
  obtain ⟨t, hfin, hx, hpc, hreg, hcpsr, hcore, houts, henv, hdelay⟩ := setX_finish_spec
    ((Run.start s).map fun t => (t.called (k.call s.mem a)).called (z.call a (s.armOperand rm))) rfl rd (k.value s.mem a)
    s.params.cycles.swap
  simp only [Run.st_map, Run.st_start, Run.width_map, Run.width_start, Run.origin_map, Run.origin_start, State.pc_called,
    State.cpsr_called, State.bankMode_called, State.outs_called] at hpc hreg hcpsr hcore houts henv hdelay
  have henv : t.environment = s.environment.replay [k.call s.mem a, z.call a (s.armOperand rm)] := henv
  refine ⟨t, hfin, hx, ?_, fun hu => ?_, fun b hb hu => ?_, hreg, hcpsr,
    coreKept_of_called (coreKept_of_called hcore), ⟨?_, henv⟩, hdelay⟩
  · simp [hpc, alignTarget_eq, ht, width_arm ht]
  · rw [State.mem_eq, henv]; exact Size.readBack_second_call hwf _ z a _ hu
  · exact memKept_of_replay henv (by simpa using ⟨k.call_stores s.mem a b, Size.not_stores hb⟩) hu
  · rw [houts]; simp [Size.call]

end Sys2Proof.Machine
end

section
/-! The statements of spec/45_arm_block_transfer.md, with the four Thumb transfers of spec/48_thumb_load_store.md. Every encoding is one
`storeMultiple` or `loadMultiple` of its fields; what those leave is `storeMultiple_spec`, `loadMultiple_spec` and, for the exception
return, `loadMultiple_return`. -/

namespace Sys2Proof.Machine

/-! ## The address range -/

/-- Settles O24, row by row of R181: the direction U chooses the branch, the order P the offset of the first word. -/
theorem blockRange : Obligations.BlockRange := by
  intro base n
  refine ⟨?_, rfl, rfl, ?_⟩
  · simp [blockAddr]
  · simp [blockAddr]

/-! ## The lists of the Thumb transfers -/

/-- A list put together from two bytes is the union of the two, each in its place (R267, R268). -/
theorem append_low_list (high low : BitVec 8) : high ++ low = low.setWidth 16 ||| (high ++ 0#8) := by
  ext i hi
  rw [BitVec.getElem_or, BitVec.getElem_append, BitVec.getElem_append, BitVec.getElem_setWidth]
  by_cases h : i < 8
  · simp [h]
  · simp [h, BitVec.getLsbD_of_ge low i (by omega)]

/-- The low registers alone (R269, R270). -/
theorem append_low_list_zero (low : BitVec 8) : 0#8 ++ low = low.setWidth 16 :=
  (BitVec.setWidth_eq_append (by decide)).symm

/-- The registers of PUSH: the bit R names r14 (R267). -/
theorem pushList_eq (lr : Bool) (low : BitVec 8) :
    0b0#1 ++ BitVec.ofBool lr ++ 0#6 ++ low = low.setWidth 16 ||| (if lr then 0x4000#16 else 0#16) := by
  cases lr
  · exact append_low_list 0#8 low
  · exact append_low_list 0x40#8 low

/-- The registers of POP: the bit R names r15 (R268). -/
theorem popList_eq (pc : Bool) (low : BitVec 8) :
    BitVec.ofBool pc ++ 0#7 ++ low = low.setWidth 16 ||| (if pc then 0x8000#16 else 0#16) := by
  cases pc
  · exact append_low_list 0#8 low
  · exact append_low_list 0x80#8 low

theorem isLow_ne_fifteen {i : Reg} (h : i.isLow = true) : i ≠ 15#4 := by
  rintro rfl; exact absurd h (by decide)

/-! ## Stores -/

/-- A storing block transfer is the `storeMultiple` of its fields, and a Thumb one has r13 or a low register as its base
(R186, R267, R269). -/
theorem blockStoreOf_spec {i : Instr} {f : BlockFields} (h : blockStoreOf i = some f) (s : State) :
    exec i s = storeMultiple f.p f.u f.sBit f.w f.rn f.list s ∧ (i.wf = true → i.isThumb = true → f.rn ≠ 15#4) := by
  unfold blockStoreOf at h
  split at h
  next => cases h; exact ⟨rfl, fun _ ht => nomatch ht⟩
  next => cases h; rw [← pushList_eq]; exact ⟨rfl, fun _ _ => (by decide : 13#4 ≠ 15#4)⟩
  next => cases h; rw [← append_low_list_zero]; exact ⟨rfl, fun hwf _ => isLow_ne_fifteen hwf⟩
  next => cases h

/-- Settles O25: what `storeMultiple` leaves, for the fields of each encoding. -/
theorem blockStores : Obligations.BlockStores := by
  intro i f s hf ht hwf hmem
  obtain ⟨hexec, hrn⟩ := blockStoreOf_spec hf s
  rw [hexec]
  exact storeMultiple_spec f s hmem fun h => hrn hwf (ht ▸ h)

/-! ## Loads -/

/-- A loading block transfer is the `loadMultiple` of its fields, and a Thumb one has r13 or a low register as its base
(R185, R268, R270). -/
theorem blockLoadOf_spec {i : Instr} {f : BlockFields} (h : blockLoadOf i = some f) (s : State) :
    exec i s = loadMultiple f.p f.u f.sBit f.w f.rn f.list s ∧ (i.wf = true → i.isThumb = true → f.rn ≠ 15#4) := by
  unfold blockLoadOf at h
  split at h
  next => cases h; exact ⟨rfl, fun _ ht => nomatch ht⟩
  next => cases h; rw [← popList_eq]; exact ⟨rfl, fun _ _ => (by decide : 13#4 ≠ 15#4)⟩
  next => cases h; rw [← append_low_list_zero]; exact ⟨rfl, fun hwf _ => isLow_ne_fifteen hwf⟩
  next => cases h

/-- Settles O26: what `loadMultiple` leaves when it is no exception return, for the fields of each encoding. -/
theorem blockLoads : Obligations.BlockLoads := by
  intro i f s hf ht hwf hS
  obtain ⟨hexec, hrn⟩ := blockLoadOf_spec hf s
  rw [hexec]
  exact loadMultiple_spec f s (fun h => hrn hwf (ht ▸ h)) hS

/-! ## The calls of a block load -/

/-- What a list of reads leaves of the environment: its reactions to them (R28, R41). -/
theorem replay_reads (e : Environment) (regs : List Reg) (z : Size) (a v : Nat → Word) :
    e.replay (regs.mapIdx fun k _ => .read z (a k) (v k)) = e.reacted regs.length := by
  induction regs generalizing e a v with
  | nil => rfl
  | cons _ rest ih =>
    rw [List.mapIdx_cons, List.length_cons]
    exact ih e.react (fun k => a (k + 1)) fun k => v (k + 1)

/-- The word a block load reads for its k-th register, once the environment has reacted to the reads before it (R183, R333). -/
def BlockFields.loaded (f : BlockFields) (s : State) (k : Nat) : Word :=
  (s.environment.reacted k).mem.read32 (f.wordAddress s k)

/-- The port call of that read. -/
def BlockFields.readCall (f : BlockFields) (s : State) (k : Nat) (_ : Reg) : OutEvent :=
  .read .word (f.wordAddress s k) (f.loaded s k)

/-- After the reads before it, the k-th word is read as `BlockFields.loaded` says. -/
theorem readWord_of_calls {f : BlockFields} {s t : State} {regs : List Reg} (h : Calls s t (regs.mapIdx (f.readCall s))) :
    t.readWord ((f.range s).start + BitVec.ofNat 32 (4 * regs.length)) = ⟨f.loaded s regs.length, f.readCall s regs.length 15#4⟩ := by
  obtain ⟨-, henv⟩ := h
  have hmem : t.mem = (s.environment.reacted regs.length).mem := by
    rw [State.mem_eq, henv]; exact congrArg _ (replay_reads _ regs .word _ _)
  rw [State.readWord, hmem]; rfl

/-- One more call after a list of calls. -/
theorem calls_concat {s t : State} {cs : List OutEvent} (h : Calls s t cs) (c : OutEvent) : Calls s (t.called c) (cs ++ [c]) := by
  obtain ⟨houts, henv⟩ := h
  exact ⟨by rw [State.outs_called, houts, List.append_assoc], by rw [State.environment_called, henv, Environment.replay_append]; rfl⟩

/-! ## The write-back -/

/-- The run once the base is written back, before the first register is loaded (R183). -/
def BlockFields.basedRun (f : BlockFields) (s : State) : Run :=
  if f.w then (Run.start s).setX f.rn (f.range s).final else Run.start s

@[simp] theorem BlockFields.origin_basedRun (f : BlockFields) (s : State) : (f.basedRun s).origin = s := by
  unfold BlockFields.basedRun; split <;> simp
@[simp] theorem BlockFields.st_basedRun (f : BlockFields) (s : State) : (f.basedRun s).st = f.based s := by
  unfold BlockFields.basedRun BlockFields.based; split <;> simp
@[simp] theorem BlockFields.environment_based (f : BlockFields) (s : State) : (f.based s).environment = s.environment := by
  unfold BlockFields.based; split <;> simp
@[simp] theorem BlockFields.outs_based (f : BlockFields) (s : State) : (f.based s).outs = s.outs := by
  unfold BlockFields.based; split <;> simp
@[simp] theorem BlockFields.cpsr_based (f : BlockFields) (s : State) : (f.based s).cpsr = s.cpsr := by
  unfold BlockFields.based; split <;> simp
theorem BlockFields.coreKept_based (f : BlockFields) (s : State) : CoreKept s (f.based s) := by
  unfold BlockFields.based; split <;> simp [CoreKept, SpsrsKept, StagingKept]
theorem BlockFields.reg_based_rn (f : BlockFields) (s : State) (hw : f.w = true) (h15 : f.rn ≠ 15#4) :
    (f.based s).reg (phys s.bankMode f.rn) = (f.range s).final := by
  simp [BlockFields.based, hw, State.reg_setX, h15]
theorem BlockFields.regsKept_based (f : BlockFields) (s : State) :
    RegsKept s (f.based s) (if f.w then [phys s.bankMode f.rn] else []) := by
  intro p _ hp
  unfold BlockFields.based
  split at hp
  next hw => rw [if_pos hw, State.reg_setX, if_neg (by simpa using hp)]
  next hw => rw [if_neg hw]

/-! ## The exception return -/

/-- A load loop that ends in r15 with S: the loop of the registers before it, the last read, and the exception return (R184 case 1). -/
theorem blockLoad_return {b : Block} {init : List Reg} {addr : Word} {q r : Run} (hS : b.sBit = true)
    (h : blockLoad b init addr false q = .ok r) :
    blockLoad b (init ++ [15#4]) addr false q =
      (r.map (·.called (r.st.readWord (addr + BitVec.ofNat 32 (4 * init.length))).call)).exceptionReturn
        (r.st.readWord (addr + BitVec.ofNat 32 (4 * init.length))).value := by
  rw [blockLoad_append, h]
  simp only [blockLoad, Run.blockWriteReg, Run.blockWriteBack, Bool.false_and, Bool.false_eq_true, if_false, hS, decide_true,
    Bool.and_true, if_true]
  cases Run.exceptionReturn _ _ <;> rfl

/-- A block load writes the base back and then loads register by register: its first read does not see the write-back (R183). -/
theorem loadMultiple_eq (f : BlockFields) (s : State) :
    loadMultiple f.p f.u f.sBit f.w f.rn f.list s =
      finishOrFault (blockLoad (s.block true f.p f.u f.sBit f.w f.rn f.list) (f.regs s) (f.range s).start false (f.basedRun s))
        (s.loadCycles (15#4 ∈ f.regs s)) := by
  obtain ⟨i, rest, hregs⟩ := List.exists_cons_of_ne_nil (f.regs_ne_nil s)
  simp only [loadMultiple, f.block_eq]
  rw [hregs, blockLoad_first]; rfl

/-- The registers before r15, loaded into the bank of the mode in force. -/
theorem blockLoad_beforePc (f : BlockFields) (s : State) {b : Block} (hu : b.userBank = false) {init : List Reg} (hnd : init.Nodup)
    (hnot : 15#4 ∉ init) :
    ∃ q, blockLoad b init (f.range s).start false (f.basedRun s) = .ok q ∧ q.origin = s ∧
      (∀ (k : Nat) (h : k < init.length), q.st.reg (phys s.bankMode init[k]) = f.loaded s k) ∧
      RegsKept (f.based s) q.st (init.map (phys s.bankMode)) ∧ q.st.cpsr = s.cpsr ∧ CoreKept s q.st ∧
      Calls s q.st (init.mapIdx (f.readCall s)) := by
  obtain ⟨-, hbank, -⟩ := f.coreKept_based s
  obtain ⟨q, hq, hload, hkeep, -, -, horigin, hcpsr, hcore, houts, henv⟩ :=
    blockLoad_false b init hnd (f.range s).start (f.basedRun s) (fun h => hnot h.2) s.bankMode (by simp [hu, hbank])
  simp only [f.st_basedRun, f.environment_based, f.origin_basedRun, f.outs_based, f.cpsr_based]
    at hload hkeep horigin hcpsr hcore houts henv
  exact ⟨q, hq, horigin, fun k hk => hload k hk fun e => hnot (e ▸ List.getElem_mem hk), hkeep, hcpsr,
    coreKept_trans (f.coreKept_based s) hcore, houts, henv⟩

/-- LDM with S and r15 in the list (R184 case 1, R185): an exception return to the last word, from a run that has written the base back,
loaded the registers before r15, of the mode it was executed in, and made every read. -/
theorem loadMultiple_return (f : BlockFields) (s : State) (hS : f.sBit = true) (h15 : 15#4 ∈ f.regs s) :
    ∃ r : Run, loadMultiple f.p f.u f.sBit f.w f.rn f.list s =
        finishOrFault (r.exceptionReturn (f.loaded s ((f.regs s).length - 1))) s.params.cycles.loadPc ∧
      r.origin = s ∧
      (∀ (k : Nat) (h : k < (f.regs s).length), (f.regs s)[k] ≠ 15#4 → r.st.reg (phys s.bankMode (f.regs s)[k]) = f.loaded s k) ∧
      (f.w = true → f.rn ≠ 15#4 → f.rn ∉ f.regs s → r.st.reg (phys s.bankMode f.rn) = (f.range s).final) ∧
      RegsKept s r.st ((f.regs s).map (phys s.bankMode) ++ if f.w then [phys s.bankMode f.rn] else []) ∧
      r.st.cpsr = s.cpsr ∧ CoreKept s r.st ∧ Calls s r.st ((f.regs s).mapIdx (f.readCall s)) := by
  obtain ⟨init, hinit, hnot⟩ := f.regs_last s h15
  have hnd : init.Nodup := (List.nodup_append.mp (hinit ▸ f.regs_nodup s)).1
  obtain ⟨q, hq, horigin, hload, hkeep, hcpsr, hcore, hcalls⟩ :=
    blockLoad_beforePc f s (b := s.block true f.p f.u f.sBit f.w f.rn f.list) (by simp [f.block_eq, h15]) hnd hnot
  refine ⟨q.map (·.called (f.readCall s init.length 15#4)), ?_, horigin, fun k hk hne => ?_, fun hw hrn hmem => ?_, fun p hp hm => ?_,
    hcpsr, hcore, ?_⟩
  · rw [loadMultiple_eq, hinit, blockLoad_return hS hq, readWord_of_calls hcalls]
    simp [State.loadCycles]
  · simp only [hinit, List.length_append, List.length_singleton] at hk
    rcases Nat.lt_succ_iff_lt_or_eq.mp hk with hlt | rfl
    · simp only [hinit, List.getElem_append_left hlt]
      exact hload k hlt
    · simp [hinit] at hne
  · have hkept : phys s.bankMode f.rn ∉ init.map (phys s.bankMode) := by
      rw [List.mem_map_of_injective fun _ _ => phys_injective _]
      exact fun h => hmem (hinit ▸ List.mem_append_left _ h)
    exact (hkeep _ (phys_ne_pc _ hrn) hkept).trans (f.reg_based_rn s hw hrn)
  · simp only [hinit, List.map_append, List.mem_append, not_or] at hm
    exact (hkeep p hp hm.1.1).trans (f.regsKept_based s p hp hm.2)
  · rw [hinit, List.mapIdx_append_one]; exact calls_concat hcalls _

theorem spsrsKept_trans {a b c : State} (h : SpsrsKept a b) (h' : SpsrsKept b c) : SpsrsKept a c := by
  simp_all [SpsrsKept]

/-- An instruction without a port call that leaves memory leaves the environment (R28, R89). -/
theorem environment_eq_of_kept {r t : State} (hmem : t.mem = r.mem) (h : StepperKept r t) : t.environment = r.environment := by
  obtain ⟨-, he, hp, hm, hh, hs, hr⟩ := h
  rw [State.environment, hmem, he, hp, hm, hh, hs, hr]; rfl

/-- The status word an exception return restores is about the SPSRs, the bank map and the CPSR alone (R21). -/
theorem spsrCur_congr {s t : State} (hcpsr : t.cpsr = s.cpsr) (h : CoreKept s t) : t.spsrCur = s.spsrCur := by
  obtain ⟨⟨hf, hs, ha, hi, hu⟩, hbank, -⟩ := h
  rw [State.spsrCur, State.spsrCur, hbank]
  cases s.bankMode <;> assumption

/-- Settles O27, by whether the exception return resolves the mode of the status word it restores: `loadMultiple_return` gives the run
before it. -/
theorem blockLoadReturns : Obligations.BlockLoadReturns := by
  intro c p u w rn list s _ f h15 i saved _ _
  obtain ⟨r, hexec, horigin, hload, hbase, hregs, hcpsr, hcore, houts, henv⟩ := loadMultiple_return f s rfl h15
  have hexec : exec i s = finishOrFault (r.exceptionReturn _) _ := hexec
  have hsaved : r.st.spsrCur = saved := (spsrCur_congr hcpsr hcore).trans (spsrCur_eq s)
  obtain ⟨hspsrs, hbank, hstaging⟩ := hcore
  have ⟨_, _, _, hparams⟩ := hstaging
  refine ⟨fun hnone hstrict => ?_, fun hok => ?_⟩
  · rw [hexec, exceptionReturn_error _ _ (by rwa [hsaved]) (by rwa [hparams]), hsaved]; rfl
  · obtain ⟨t, hfin, tcpsr, tbank, tpc, treg, tmem, tspsrs, tstep, touts, tdelay⟩ :=
      exceptionReturn_spec r (f.loaded s ((f.regs s).length - 1)) s.params.cycles.loadPc (by rwa [hsaved, hparams])
    have ⟨tstaging, _⟩ := tstep
    rw [hsaved] at tcpsr tbank tpc
    have hcalls : Calls s t ((f.regs s).mapIdx (f.readCall s)) :=
      ⟨touts.trans houts, (environment_eq_of_kept tmem tstep).trans henv⟩
    refine ⟨t, hexec.trans hfin, fun k hk hne => ?_, fun hw hrn hmem => ?_, fun q hq hm => ?_, tcpsr, ?_, tpc, fun a hu => ?_, ?_, ?_,
      hcalls, ?_⟩
    · rw [treg _ (phys_ne_pc _ hne)]; exact hload k hk hne
    · rw [treg _ (phys_ne_pc _ hrn)]; exact hbase hw hrn hmem
    · rw [treg q hq]; exact hregs q hq hm
    · rw [tbank, hbank]
    · exact memKept_of_replay hcalls.2 (readCalls_out (f.regs s) (fun k => (f.wordAddress s k, f.loaded s k)) a) (by simpa using hu)
    · exact spsrsKept_trans hspsrs tspsrs
    · exact stagingKept_trans hstaging tstaging
    · rw [tdelay, horigin]

end Sys2Proof.Machine
end

section
/-! The statements of spec/46_arm_branch_status_system.md, with the Thumb branch, BX, SWI and UNDEFINED encodings that share their
meanings. What a meaning leaves is stated once for each shape of run: a jump, a link and a jump, a register written, an exception
entered, a status word written. -/

namespace Sys2Proof.Machine

/-! ## Branches -/

/-- What an instruction that is one jump leaves (R190, R284). -/
theorem branch_spec (s : State) (v : Word) (n : Nat) {w : Word} (hw : s.alignTarget v = w) :
    ∃ t, ((Run.start s).jump v).finish n = .next t ∧ t.pc = w ∧ RegsKept s t [] ∧ t.cpsr = s.cpsr ∧ MemKept s t ∧ SystemKept s t ∧
      t.outs = s.outs ∧ t.delay = s.extraCycles true n := by
  obtain ⟨t, hfin, hpc, hreg, hcpsr, hmem, hsys, houts, hdelay⟩ := jump_spec (Run.start s) v n w hw
  exact ⟨t, hfin, hpc, fun p hp _ => hreg p hp, hcpsr, fun a => congrArg (Memory.read8 · a) hmem, hsys, houts, hdelay⟩

/-- What an instruction that links and jumps leaves (R191, R286). -/
theorem branchLink_spec (s : State) (link v : Word) (n : Nat) {w : Word} (hw : s.alignTarget v = w) :
    ∃ t, (((Run.start s).setX 14#4 link).jump v).finish n = .next t ∧ t.pc = w ∧ t.x 14#4 = link ∧
      RegsKept s t [phys s.bankMode 14#4] ∧ t.cpsr = s.cpsr ∧ MemKept s t ∧ SystemKept s t ∧ t.outs = s.outs ∧
      t.delay = s.extraCycles true n := by
  rw [start_setX_link]
  obtain ⟨t, hfin, hpc, hreg, hcpsr, hmem, hsys, houts, hdelay⟩ :=
    jump_spec ((Run.start s).map (·.setReg (phys s.bankMode 14#4) link)) v n w hw
  have ⟨_, hbank, _⟩ := hsys
  refine ⟨t, hfin, hpc, ?_, fun p hp hm => ?_, hcpsr, fun a => congrArg (Memory.read8 · a) hmem, hsys, houts, hdelay⟩
  · rw [State.x_eq, hbank]
    exact (hreg _ (link_ne_pc s)).trans (s.reg_setReg_self _ link)
  · exact (hreg p hp).trans (s.reg_setReg_of_ne link (by simpa using hm))

/-- Settles O28: B and Thumb B are one jump, BL a link and a jump, and from an aligned `pc` the sum is the target (R190). -/
theorem branches : Obligations.Branches :=
  ⟨fun _ imm24 s ht ha =>
      have htarget := arm_branch_target s ht ha imm24
      ⟨branch_spec s _ _ htarget, branchLink_spec s _ _ _ htarget⟩,
    fun offset11 s ht ha => branch_spec s _ _ (thumb_branch_target s 11 (by decide) ht ha offset11)⟩

/-- What BX of either set leaves (R192, R241). -/
theorem branchExchange_spec (v : Word) (s : State) :
    ∃ t, branchExchange v s = .next t ∧ t.thumb = v.getLsbD 0 ∧ t.cpsr &&& 0xFFFFFFDF#32 = s.cpsr &&& 0xFFFFFFDF#32 ∧
      t.pc = v &&& (if v.getLsbD 0 then 0xFFFFFFFE#32 else 0xFFFFFFFC#32) ∧ RegsKept s t [] ∧ MemKept s t ∧ SystemKept s t ∧
      t.outs = s.outs ∧ t.delay = s.extraCycles true s.params.cycles.branch := by
  let r := (Run.start s).map fun t => t.setCpsr (Psr.withT t.cpsr (v.getLsbD 0))
  have hthumb : r.st.thumb = v.getLsbD 0 := Psr.t_withT _ _
  obtain ⟨t, hfin, hpc, hreg, hcpsr, hmem, hsys, houts, hdelay⟩ := jump_spec r v s.params.cycles.branch _ (alignTarget_eq _ v)
  rw [hthumb] at hpc
  refine ⟨t, hfin, ?_, ?_, hpc, fun p hp _ => hreg p hp, fun a => congrArg (Memory.read8 · a) hmem, hsys, houts, hdelay⟩
  · rw [State.thumb_eq, hcpsr]; exact hthumb
  · rw [hcpsr]; exact withT_and _ _

/-- Settles O29: both sets run the one meaning, on the operand r15 reads as in that set (R88). -/
theorem Branching.branchExchange : Obligations.BranchExchange := by
  rintro c h1 r i s (rfl | rfl) ht v
  · have hv : v = s.xop r := by rw [xop_arm ht]; exact if_neg (by simp [ht, Instr.isThumb])
    rw [hv]; exact branchExchange_spec (s.xop r) s
  · have hv : v = s.xop r := by rw [xop_thumb ht]; exact if_pos ht
    rw [hv]; exact branchExchange_spec (s.xop r) s

/-! ## Software interrupts -/

/-- What `raise SWI` leaves (R199, R283, R304). -/
theorem softwareInterrupt_spec (s : State) (ra : Word) :
    ∃ t, softwareInterrupt s ra = .next t ∧ t.spsrSvc = s.cpsr ∧ t.cpsr = (s.cpsr &&& 0xFFFFFF40#32) ||| 0x93#32 ∧
      t.bankMode = .svc ∧ t.reg .r14svc = ra ∧ t.pc = 0x00000008#32 ∧ RegsKept s t [.r14svc] ∧ t.spsrFiq = s.spsrFiq ∧
      t.spsrAbt = s.spsrAbt ∧ t.spsrIrq = s.spsrIrq ∧ t.spsrUnd = s.spsrUnd ∧ MemKept s t ∧ StepperKept s t ∧ t.outs = s.outs ∧
      t.delay = s.extraCycles true s.params.cycles.swi := by
  have hreg (q : PReg) (hq : q ≠ .pc) := s.enterException_reg .svc Config.vecSwi ra q hq
  refine ⟨_, Run.finish_eq _ _, by simp, ?_, by simp, ?_, ?_, fun p hp hm => ?_, by simp, by simp, by simp, by simp,
    fun a => by simp, by simp [StepperKept, StagingKept], by simp, rfl⟩
  · rw [Run.cpsr_result]; exact s.enterException_cpsr .svc Config.vecSwi ra
  · rw [Run.reg_result _ _ (by decide)]; exact hreg .r14svc (by decide)
  · rw [Run.pc_result]; exact s.enterException_pc .svc Config.vecSwi ra
  · rw [Run.reg_result _ _ hp]; exact (hreg p hp).trans (if_neg (List.ne_of_not_mem_cons hm))

/-- SWI of either set returns to the next instruction of that set (R199, R283). -/
theorem exec_swi {i : Instr} {s : State} (h : isSwi i = true) (ht : s.thumb = i.isThumb) :
    exec i s = softwareInterrupt s (s.pc + s.width) := by
  unfold isSwi at h
  split at h
  next => rw [width_arm ht]; rfl
  next => rw [width_thumb ht]; rfl
  next => exact absurd h Bool.false_ne_true

/-- Settles O33: the entry of R304 with the return address of the set. -/
theorem softwareInterrupts : Obligations.SoftwareInterrupts := by
  intro i s hi ht
  rw [exec_swi hi ht]
  exact softwareInterrupt_spec s (s.pc + s.width)

/-- An exception return in a mode with an SPSR that names a mode restores both and goes to its result (R121, R320). -/
theorem exec_dpInstr_restores {op : AluOp} (hw : op.writesRd = true) (c : Cond) (rn : Reg) (f : DpForm) {s : State}
    (ht : s.thumb = false) (hspsr : s.bankMode.hasSpsr = true) {m : Mode}
    (hm : Mode.ofBits (Psr.mode (s.spsrOf s.bankMode)) = some m) :
    ∃ u, exec (dpInstr op c true rn 15#4 f) s = .next u ∧ u.cpsr = s.spsrOf s.bankMode ∧ u.bankMode = m ∧
      u.pc = (f.out op s rn).r &&& (if Psr.t (s.spsrOf s.bankMode) then 0xFFFFFFFE#32 else 0xFFFFFFFC#32) ∧ RegsKept s u [] ∧
      MemKept s u ∧ SpsrsKept s u := by
  obtain ⟨-, hret⟩ := dataProcessingReturns op c rn f s ht hw
  simp only [hspsr, if_true, hm, Option.getD_some] at hret
  obtain ⟨u, hexec, hcpsr, hbank, hpc, hregs, hmem, hspsrs, -, -, -⟩ := hret (.inl (Option.some_ne_none m))
  exact ⟨u, hexec, hcpsr, hbank, hpc, hregs, hmem, hspsrs⟩

/-- The instruction after an aligned one is aligned (R16, R89). -/
theorem alignTarget_next {s : State} (ha : s.pcAligned) : s.alignTarget (s.pc + s.width) = s.pc + s.width := by
  unfold State.pcAligned at ha
  cases ht : s.thumb with
  | true =>
    rw [alignTarget_thumb ht, aligned_two] at ha ⊢
    rw [width_thumb ht]; bv_omega
  | false =>
    rw [alignTarget_arm ht, aligned_four] at ha ⊢
    rw [width_arm ht]; bv_omega

/-- Settles O59: the entry saves the CPSR and the next address, and the return of R121 restores both. -/
theorem swiReturnsExactly : Obligations.SwiReturnsExactly := by
  intro i c s hi ht ha hmode
  obtain ⟨t, hswi, tsvc, tcpsr, tbank, tlink, -, tregs, tfiq, tabt, tirq, tund, tmem, -, -, -⟩ := softwareInterrupts i s hi ht
  have hthumb : t.thumb = false := by rw [State.thumb_eq, tcpsr]; simp [Psr.t]
  have hsaved : t.spsrOf t.bankMode = s.cpsr := by rw [tbank]; exact tsvc
  have hlr : t.x 14#4 = s.pc + s.width := by rw [State.x_eq, tbank]; exact tlink
  obtain ⟨u, hret, ucpsr, ubank, upc, uregs, umem, ufiq, -, uabt, uirq, uund⟩ :=
    exec_dpInstr_restores (op := .mov) rfl c 0#4 (.shiftImm 0#5 .lsl 14#4) hthumb (by rw [tbank]; rfl) (by rwa [hsaved])
  refine ⟨t, u, hswi, hret, ucpsr.trans hsaved, ubank, ?_, fun p hp hm => ?_, fun a => (umem a).trans (tmem a), ufiq.trans tfiq,
    uabt.trans tabt, uirq.trans tirq, uund.trans tund⟩
  · have hpc : u.pc = s.alignTarget (t.x 14#4) := by rw [upc, hsaved, alignTarget_eq]; rfl
    rw [hpc, hlr]; exact alignTarget_next ha
  · exact (uregs p hp List.not_mem_nil).trans (tregs p hp hm)

/-! ## MRS -/

/-- What an instruction that writes one register leaves (R89, R90, R194). -/
theorem writeRegister_spec (s : State) (i : Reg) (v : Word) (n : Nat) :
    ∃ t, ((Run.start s).setX i v).finish n = .next t ∧ (i ≠ 15#4 → t.x i = v) ∧
      t.pc = (if i = 15#4 then s.alignTarget v else s.pc + s.width) ∧ RegsKept s t [phys s.bankMode i] ∧ t.cpsr = s.cpsr ∧
      MemKept s t ∧ SystemKept s t ∧ t.outs = s.outs ∧ t.delay = s.extraCycles (i = 15#4) n := by
  by_cases h : i = 15#4
  · subst h
    obtain ⟨t, hfin, hpc, hregs, hrest⟩ := branch_spec s v n rfl
    exact ⟨t, hfin, fun h => absurd rfl h, hpc, fun p hp _ => hregs p hp List.not_mem_nil, hrest⟩
  · obtain ⟨t, hfin, hpc, hreg, hcpsr, hmem, hsys, houts, hdelay⟩ := advance_spec ((Run.start s).setX i v) n (by simp [h])
    simp only [Run.st_setX, Run.st_start, Run.width_setX, Run.width_start, Run.origin_setX, Run.origin_start, State.pc_setX, if_neg h]
      at hpc hreg hcpsr hmem hsys houts hdelay
    have hkept : SystemKept s t := systemKept_trans (systemKept_setX s i v) hsys
    have ⟨_, hbank, _⟩ := hkept
    refine ⟨t, hfin, fun _ => ?_, ?_, fun p hp hm => ?_, ?_, fun a => ?_, hkept, ?_, ?_⟩
    · rw [State.x_eq, hbank, hreg _ (phys_ne_pc _ h), State.reg_setX, if_pos rfl, if_neg h]
    · rw [hpc, if_neg h]
    · rw [hreg p hp]; exact s.reg_setX_of_ne i v (by simpa using hm)
    · rw [hcpsr, State.cpsr_setX]
    · rw [hmem, State.mem_setX]
    · rw [houts, State.outs_setX]
    · rw [hdelay, decide_eq_false h]

/-- MRS is the write of the status word it reads: the SPSR, where the mode has one, or the CPSR (R21, R194). -/
theorem exec_mrs (c : Cond) (spsr : Bool) (rd : Reg) (s : State) :
    exec (.mrs c spsr rd) s =
      ((Run.start s).setX rd (if spsr && s.bankMode.hasSpsr then s.spsrOf s.bankMode else s.cpsr)).finish s.params.cycles.status := by
  cases spsr with
  | true => exact congrArg (fun v => ((Run.start s).setX rd v).finish s.params.cycles.status) (spsrCur_eq s)
  | false => rfl

/-- Settles O34: MRS is one register written, r15 as a jump. -/
theorem statusRead : Obligations.StatusRead := by
  intro c spsr rd s ht
  rw [exec_mrs, ← width_arm ht]
  simp only [← alignTarget_arm ht]
  exact writeRegister_spec s rd _ s.params.cycles.status

/-! ## MSR to CPSR -/

/-- The control byte is written where the mask names it, but not in User mode under `blocked` (R196). -/
theorem writesControl_eq (s : State) (mask : BitVec 4) : s.writesControl mask =
    (mask.getLsbD 0 && !decide (Psr.mode s.cpsr = Mode.usr.bits ∧ s.params.msrUserControl = .blocked)) := by
  rw [Bool.decide_and]; rfl

/-- The bits MSR to CPSR writes: of the control byte all but T, where it is written at all (R195, R196, R306). -/
theorem getLsbD_msrCpsrMask (s : State) (mask : BitVec 4) (i : Nat) (hi : i < 32) :
    (s.msrCpsrMask mask).getLsbD i =
      if i < 8 then s.writesControl mask && (i != 5 || false) else mask.getLsbD (i / 8) := by
  have hT : (0xFFFFFFDF#32).getLsbD i = (i != 5) := by revert i; decide
  have hhigh : (0xFFFFFF00#32).getLsbD i = !decide (i < 8) := by revert i; decide
  rw [writesControl_eq, State.msrCpsrMask, BitVec.getLsbD_and, hT]
  by_cases hlow : i < 8
  · rw [if_pos hlow, Bool.or_false]
    have hbit : (msrMask mask).getLsbD i = mask.getLsbD 0 := by rw [getLsbD_msrMask _ _ hi, Nat.div_eq_of_lt hlow]
    split
    next hu => simp [hu, hhigh, hlow]
    next hu => rw [hbit, decide_eq_false hu, Bool.not_false, Bool.and_true]
  · have hne : (i != 5) = true := bne_iff_ne.2 (by omega)
    rw [if_neg hlow, hne, Bool.and_true, ← getLsbD_msrMask mask i hi]
    split
    next => rw [BitVec.getLsbD_and, hhigh, decide_eq_false hlow, Bool.not_false, Bool.and_true]
    next => rfl

/-- The status word MSR to CPSR leaves (R195, R196). -/
def State.msrCpsrWord (s : State) (mask : BitVec 4) (v : Word) : Word := msrWord s.cpsr v mask (s.writesControl mask) false

/-- MSR to CPSR merges by its mask what the rule picks field by field. -/
theorem mergeBits_msrCpsrMask (s : State) (mask : BitVec 4) (v : Word) :
    mergeBits s.cpsr v (s.msrCpsrMask mask) = s.msrCpsrWord mask v :=
  mergeBits_eq_msrWord _ _ _ _ _ _ (getLsbD_msrCpsrMask s mask)

/-- The model's test of the mask is whether the control byte is written: its I and F are then bits of the mask. -/
theorem msrCpsrMask_lowByte_eq_zero (s : State) (mask : BitVec 4) :
    (s.msrCpsrMask mask).extractLsb' 0 8 = 0#8 ↔ s.writesControl mask = false := by
  have hbit (i : Nat) (hi : i < 8) :
      ((s.msrCpsrMask mask).extractLsb' 0 8).getLsbD i = (s.writesControl mask && (i != 5 || false)) := by
    rw [BitVec.getLsbD_extractLsb', Nat.zero_add, getLsbD_msrCpsrMask _ _ _ (by omega), if_pos hi, decide_eq_true hi, Bool.true_and]
  constructor
  · intro h
    have h0 := hbit 0 (by decide)
    rw [h] at h0
    simpa using h0.symm
  · intro h
    exact BitVec.eq_of_getLsbD_eq fun i hi => by rw [hbit i hi, h, Bool.false_and, BitVec.getLsbD_zero]

/-- MSR to CPSR: the status word written, and the mode resolved where the control byte is (R17, R196). -/
theorem msrToCpsr_eq (mask : BitVec 4) (v : Word) (s : State) :
    msrToCpsr mask v s = finishOrFault
      ((if s.writesControl mask then (s.setCpsr (s.msrCpsrWord mask v)).resolveMode else .ok (s.setCpsr (s.msrCpsrWord mask v))).map
        fun t => (Run.start s).map fun _ => t) s.params.cycles.status := by
  simp only [msrToCpsr, msrCpsrMask_lowByte_eq_zero, mergeBits_msrCpsrMask]
  cases s.writesControl mask with
  | false => rfl
  | true =>
    simp only [Bool.true_eq_false, if_false, if_true]
    cases (s.setCpsr (s.msrCpsrWord mask v)).resolveMode <;> rfl

/-- What an MSR to CPSR runs (R195). -/
theorem exec_msrCpsr {i : Instr} {mask : BitVec 4} {v : Word} {s : State} (h : msrCpsrOf i s = some (mask, v)) (ht : s.thumb = false) :
    exec i s = msrToCpsr mask v s := by
  unfold msrCpsrOf at h
  split at h
  next => cases h; rw [← xop_eq_armOperand ht]; rfl
  next => cases h; rfl
  next => cases h

/-- What an instruction leaves that writes the CPSR and the bank map alone. -/
theorem writeCpsr_spec (s : State) (ht : s.thumb = false) (w : Word) (m : Mode) (n : Nat) :
    ∃ t, ((Run.start s).map fun _ => (s.setCpsr w).setBankMode m).finish n = .next t ∧ t.cpsr = w ∧ t.bankMode = m ∧
      t.pc = s.pc + 4#32 ∧ RegsKept s t [] ∧ MemKept s t ∧ SpsrsKept s t ∧ StepperKept s t ∧ t.outs = s.outs ∧
      t.delay = s.extraCycles false n := by
  obtain ⟨t, hfin, hpc, hreg, hcpsr, hmem, ⟨hspsrs, hbank, hstep⟩, houts, hdelay⟩ :=
    advance_spec ((Run.start s).map fun _ => (s.setCpsr w).setBankMode m) n rfl
  refine ⟨t, hfin, hcpsr, hbank, ?_, fun p hp _ => hreg p hp, fun a => congrArg (Memory.read8 · a) hmem, hspsrs, hstep, houts, hdelay⟩
  rw [hpc, Run.width_map, Run.width_start, width_arm ht]; rfl

/-- Settles O35, by whether the control byte is written and, where it is, whether its mode number resolves. -/
theorem statusWrite : Obligations.StatusWrite := by
  intro i mask v s hi ht new bad
  rw [exec_msrCpsr hi ht, msrToCpsr_eq]
  refine ⟨fun ⟨hc, hnone⟩ hstrict => ?_, fun hok => ?_⟩
  · rw [if_pos hc, State.resolveMode_strict (s := s.setCpsr (s.msrCpsrWord mask v)) hnone hstrict]; rfl
  · cases hc : s.writesControl mask with
    | false => exact writeCpsr_spec s ht new s.bankMode s.params.cycles.status
    | true =>
      have hmode : Mode.ofBits (Psr.mode new) ≠ none ∨ s.params.strict = false := hok.imp_left fun hb hnone => hb ⟨hc, hnone⟩
      rw [if_pos rfl, State.resolveMode_getD (s := s.setCpsr (s.msrCpsrWord mask v)) hmode]
      exact writeCpsr_spec s ht new _ s.params.cycles.status

/-! ## MSR to SPSR -/

/-- What an MSR to SPSR runs (R195). -/
theorem exec_msrSpsr {i : Instr} {mask : BitVec 4} {v : Word} {s : State} (h : msrSpsrOf i s = some (mask, v)) (ht : s.thumb = false) :
    exec i s = msrToSpsr mask v s := by
  unfold msrSpsrOf at h
  split at h
  next => cases h; rw [← xop_eq_armOperand ht]; rfl
  next => cases h; rfl
  next => cases h

/-- Settles O36: both forms run the one write of the mode's own SPSR. -/
theorem savedStatusWrite : Obligations.SavedStatusWrite := by
  intro i mask v s hi ht
  rw [exec_msrSpsr hi ht]
  exact msrToSpsr_spec mask v s ht

/-! ## Coprocessor and UNDEFINED encodings -/

/-- Each of the 26 encodings runs the one meaning (R203, R204, R288). -/
theorem exec_unimplemented {i : Instr} (h : isUnimplemented i = true) (s : State) : exec i s = unimplementedInstr s := by
  unfold isUnimplemented at h
  split at h
  case h_27 => exact absurd h Bool.false_ne_true
  all_goals rfl

/-- Settles O37, by UNDEFINED_POLICY: the fault, or an instruction with no effect but the frame's. -/
theorem unimplementedEncodings : Obligations.UnimplementedEncodings := by
  intro i s hi _
  rw [exec_unimplemented hi, unimplementedInstr]
  refine ⟨fun hfault => by rw [hfault], fun hnop => ?_⟩
  rw [hnop]
  exact noEffect_spec s 0

end Sys2Proof.Machine
end

section
/-! The statements of spec/47_thumb_alu.md. Every flag-setting operation is the `dataProcessing` of its row, every move is one register
written, and MUL is one register written with its flags. What a register write leaves is `writeRegister_spec`; flags written after it
change the status word alone. -/

namespace Sys2Proof.Machine

/-! ## Flags at the end of an instruction -/

/-- Flags written before `pc` is advanced are flags written after it. -/
theorem finish_setAluFlags {r : Run} {n : Nat} {t : State} (o : AluOut) (h : r.finish n = .next t) :
    (r.map (·.setAluFlags o)).finish n = .next (t.setAluFlags o) := by
  obtain ⟨st, origin, redirected⟩ := r
  cases h
  cases redirected <;> rfl

/-- The flags of a result over a status word that was as before. -/
theorem flagsAre_setAluFlags {s t : State} (o : AluOut) (h : t.cpsr = s.cpsr) :
    FlagsAre s (t.setAluFlags o) (o.r.getLsbD 31) (o.r == 0#32) o.c o.v :=
  flagsAre_of_withFlags s _ o (by rw [State.cpsr_setAluFlags, h])

/-- What an instruction that writes a register other than r15 and the flags of the result leaves (R210, R235). -/
theorem writeRegisterFlags_spec (s : State) {rd : Reg} (hrd : rd ≠ 15#4) (o : AluOut) (n : Nat) :
    ∃ t, (((Run.start s).setX rd o.r).map (·.setAluFlags o)).finish n = .next t ∧ t.x rd = o.r ∧
      FlagsAre s t (o.r.getLsbD 31) (o.r == 0#32) o.c o.v ∧ t.pc = s.pc + s.width ∧ RegsKept s t [phys s.bankMode rd] ∧
      MemKept s t ∧ SystemKept s t ∧ t.outs = s.outs ∧ t.delay = s.extraCycles false n := by
  obtain ⟨t, hfin, hx, hpc, hregs, hcpsr, hmem, hsys, houts, hdelay⟩ := writeRegister_spec s rd o.r n
  rw [if_neg hrd] at hpc
  rw [decide_eq_false hrd] at hdelay
  exact ⟨t.setAluFlags o, finish_setAluFlags o hfin, hx hrd, flagsAre_setAluFlags o hcpsr, hpc, hregs, hmem, hsys, houts, hdelay⟩

/-! ## The flag-setting operations -/

/-- What `dataProcessing` with S leaves where it is no exception return: Rd, if the operation writes it, and the flags (R120, R122). -/
theorem dataProcessing_flags_spec (op : AluOp) {rd : Reg} (a : Word) (b : Shifted) (regShift : Bool) (s : State)
    (hrd : op.writesRd = true → rd ≠ 15#4) :
    ∃ t, dataProcessing op true rd a b regShift s = .next t ∧
      let o := op.eval a b.value b.carry (Psr.c s.cpsr) (Psr.v s.cpsr)
      (op.writesRd = true → t.x rd = o.r) ∧ FlagsAre s t (o.r.getLsbD 31) (o.r == 0#32) o.c o.v ∧ t.pc = s.pc + s.width ∧
        RegsKept s t (if op.writesRd then [phys s.bankMode rd] else []) ∧ MemKept s t ∧ SystemKept s t ∧ t.outs = s.outs ∧
        t.delay = s.extraCycles false (s.aluCycles regShift false) := by
  cases hw : op.writesRd with
  | true =>
    have h15 := hrd hw
    rw [dataProcessing_write hw true a b regShift s (.inr h15), decide_eq_false h15]
    obtain ⟨t, hfin, hx, hrest⟩ := writeRegisterFlags_spec s h15 (op.eval a b.value b.carry (Psr.c s.cpsr) (Psr.v s.cpsr))
      (s.aluCycles regShift false)
    exact ⟨t, hfin, fun _ => hx, hrest⟩
  | false =>
    rw [dataProcessing_compare hw]
    obtain ⟨t, hfin, hpc, hregs, hcpsr, hrest⟩ := noEffect_spec s (s.aluCycles regShift false)
    exact ⟨_, finish_setAluFlags _ hfin, fun h => absurd h Bool.false_ne_true, flagsAre_setAluFlags _ hcpsr, hpc, hregs, hrest⟩

/-- In Thumb state the operands an instruction on high registers reads are those the claims read (R88). -/
theorem xop_eq_thumbOperand {s : State} (ht : s.thumb = true) : s.xop = s.thumbOperand := funext (xop_thumb ht)

/-- A shift by a register is a move of the shifter's result, the amount the low byte of Rs (R224). -/
theorem thumbShiftReg_eq (kind : ShiftKind) (rs rd : Reg) (s : State) :
    thumbShiftReg kind rs rd s =
      dataProcessing .mov true rd 0#32 (shift kind (s.x rd) (s.x rs &&& 0xFF#32).toNat (Psr.c s.cpsr) .reg) true s := by
  rw [thumbShiftReg, lowByte_toNat]

/-- CMP of high registers is the comparison of its two operands (R239). -/
theorem exec_tCmpHi (src dst : Reg) {s : State} (ht : s.thumb = true) :
    exec (.tCmpHi src dst) s = dataProcessing .cmp true dst (s.thumbOperand dst) ⟨s.thumbOperand src, Psr.c s.cpsr⟩ false s := by
  rw [← xop_eq_thumbOperand ht]; rfl

/-- A flag-setting Thumb operation is the `dataProcessing` of its row, NEG that of 0 - Rs, and where it writes Rd, that is a low register
(R211 to R237, R239). -/
theorem thumbAluOf_spec {i : Instr} {op : AluOp} {rd : Reg} {a : Word} {b : Shifted} {s : State}
    (h : thumbAluOf i s = some (op, rd, a, b)) (ht : s.thumb = true) :
    ∃ regShift, exec i s = dataProcessing op true rd a b regShift s ∧ s.aluCycles regShift false = thumbShiftCycles i s ∧
      (i.wf = true → op.writesRd = true → rd.isLow = true) := by
  unfold thumbAluOf at h
  split at h
  case h_8 | h_9 | h_10 | h_11 => -- MOV, CMP, ADD and SUB with an 8-bit immediate
    cases h; exact ⟨false, rfl, rfl, fun hwf _ => hwf⟩
  case h_14 | h_15 | h_16 | h_19 => -- the shifts by a register
    cases h; exact ⟨true, thumbShiftReg_eq .., rfl, fun hwf _ => Bool.and_elim_right hwf⟩
  case h_27 => -- CMP of high registers
    cases h; exact ⟨false, exec_tCmpHi _ _ ht, rfl, fun _ hw => absurd hw Bool.false_ne_true⟩
  case h_28 => cases h
  all_goals cases h; exact ⟨false, rfl, rfl, fun hwf _ => Bool.and_elim_right hwf⟩

/-- Settles O38: what `dataProcessing` leaves with S, for the row of each operation. -/
theorem thumbOperations : Obligations.ThumbOperations := by
  intro i op rd a b s hi hwf ht
  obtain ⟨regShift, hexec, hcycles, hlow⟩ := thumbAluOf_spec hi ht
  rw [hexec, ← hcycles, ← width_thumb ht]
  exact dataProcessing_flags_spec op a b regShift s fun hw => isLow_ne_fifteen (hlow hwf hw)

/-! ## MUL -/

/-- MUL writes the exact product modulo 2^32 and clears C and V (R235). -/
theorem exec_tMul (rs rd : Reg) (s : State) :
    exec (.tMul rs rd) s =
      (((Run.start s).setX rd (BitVec.ofNat 32 ((s.x rd).toNat * (s.x rs).toNat))).map
        (·.setAluFlags ⟨BitVec.ofNat 32 ((s.x rd).toNat * (s.x rs).toNat), false, false⟩)).finish
        (multiplierCycles (s.x rd) true + s.params.cycles.mul) := by
  have hr : BitVec.ofNat 32 ((s.x rd).toNat * (s.x rs).toNat) = s.x rd * s.x rs :=
    (ofNat_product_sum _ _ 0).trans (BitVec.add_zero _)
  rw [hr]; rfl

/-- Settles O39: one register written, with the flags of a multiply. -/
theorem thumbMultiply : Obligations.ThumbMultiply := by
  intro rs rd s hwf ht
  have hrd : rd ≠ 15#4 := isLow_ne_fifteen (Bool.and_elim_right hwf)
  rw [exec_tMul, ← width_thumb ht]
  exact writeRegisterFlags_spec s hrd ⟨_, false, false⟩ _

/-! ## The moves -/

/-- A move is one register written; its cycles are those of a write of `pc` (R343). -/
theorem thumbMove_eq (rd : Reg) (v : Word) (s : State) :
    thumbMove rd v s = ((Run.start s).setX rd v).finish (if rd = 15#4 then s.params.cycles.pcWrite else 0) := by
  rw [thumbMove, dataProcessing_write rfl false _ _ _ _ (.inl rfl), Run.finish_eq]
  simp [State.aluCycles, AluOp.eval, State.plain]

/-- Each instruction that writes a register and no flag is the move of its value (R238, R240, R242 to R245). -/
theorem exec_thumbMoveOf {i : Instr} {rd : Reg} {v : Word} {s : State} (h : thumbMoveOf i s = some (rd, v)) (ht : s.thumb = true) :
    exec i s = thumbMove rd v s := by
  unfold thumbMoveOf at h
  rw [← xop_eq_thumbOperand ht] at h
  split at h
  case h_7 => cases h
  all_goals cases h; rfl

/-- Settles O40: one register written, r15 as a jump that stays in Thumb state. -/
theorem thumbMoves : Obligations.ThumbMoves := by
  intro i rd v s hi _ ht
  rw [exec_thumbMoveOf hi ht, thumbMove_eq, ← width_thumb ht, ← alignTarget_thumb ht]
  obtain ⟨t, hfin, hx, hpc, hregs, hcpsr, hrest⟩ :=
    writeRegister_spec s rd v (if rd = 15#4 then s.params.cycles.pcWrite else 0)
  exact ⟨t, hfin, hx, hpc, hcpsr, hregs, hrest⟩

end Sys2Proof.Machine
end

section
/-! The single transfers of spec/48_thumb_load_store.md. Every load is one load of its kind at its address, every store one store of its
width, neither with a write-back; what that load or store leaves is `loadTransfer_spec` and `storeTransfer_spec`. -/

namespace Sys2Proof.Machine

/-! ## Loads -/

/-- The unscaled offset of the byte transfers (R261, R262). -/
theorem addressScaled_zero (s : State) (offset5 : BitVec 5) (rb : Reg) : s.addressScaled offset5 0 rb = s.x rb + offset5.setWidth 32 := by
  rw [State.addressScaled, BitVec.shiftLeft_zero]

/-- A Thumb single load is a refusal under R45 or the load of its kind at its address, and its destination is a low register
(R250 to R266). -/
theorem thumbLoadOf_spec {i : Instr} {k : LoadKind} {rd : Reg} {a : Word} {s : State} (h : thumbLoadOf i s = some (k, rd, a)) :
    exec i s = (if k.refuses s a then .refused .misalignedHalfword
      else loadTransfer 0#4 rd (plainAddress a) (LoadKind.access s k a) s) ∧ (i.wf = true → rd.isLow = true) := by
  unfold thumbLoadOf at h
  split at h
  case h_1 | h_10 => cases h; exact ⟨rfl, id⟩ -- the bases pc and r13
  case h_8 => cases h; rw [← addressScaled_zero]; exact ⟨rfl, Bool.and_elim_right⟩ -- LDRB with an immediate offset
  case h_11 => cases h
  all_goals cases h; exact ⟨rfl, Bool.and_elim_right⟩

/-- Settles O41: the load of the kind, where it is not refused. -/
theorem thumbLoads : Obligations.ThumbLoads := by
  intro i k rd a s hi hwf ht
  obtain ⟨hexec, hlow⟩ := thumbLoadOf_spec hi
  have hrd : rd ≠ 15#4 := isLow_ne_fifteen (hlow hwf)
  rw [hexec]
  refine ⟨fun hr => if_pos hr, fun hr => ?_⟩
  rw [if_neg (Bool.eq_false_iff.mp hr)]
  obtain ⟨t, hfin, hx, -, hpc, hregs, hcpsr, hmem, hcore, hcalls, hdelay⟩ :=
    loadTransfer_spec s 0#4 rd (plainAddress a) _ _ (width_thumb ht) (LoadKind.access_stores s k a)
  rw [LoadKind.access_eq] at hx hcalls
  simp only [hrd, plainAddress, Bool.false_eq_true, false_and, or_false, if_false, decide_false] at hpc hregs hdelay
  exact ⟨t, hfin, hx hrd, hpc, hregs, hcpsr, hmem, hcore, hcalls, hdelay⟩

/-! ## Stores -/

/-- A Thumb single store is the store of its width at its address (R251 to R265). -/
theorem exec_thumbStoreOf {i : Instr} {z : Size} {rd : Reg} {a : Word} {s : State} (h : thumbStoreOf i s = some (z, rd, a)) :
    exec i s = storeTransfer 0#4 (plainAddress a) (Size.stored s z a (s.x rd)) s := by
  unfold thumbStoreOf at h
  split at h
  case h_5 => cases h; rw [← addressScaled_zero]; rfl -- STRB with an immediate offset
  case h_8 => cases h
  all_goals cases h; rfl

/-- Settles O42: the store of the width. -/
theorem thumbStores : Obligations.ThumbStores := by
  intro i z rd a s hi _ ht hmem
  rw [exec_thumbStoreOf hi]
  obtain ⟨t, hfin, hread, hout, -, hpc, hregs, hcpsr, hcore, hcalls, hdelay⟩ :=
    storeTransfer_spec s 0#4 (plainAddress a) z a (s.x rd) hmem _ (width_thumb ht)
  simp only [plainAddress, Bool.false_eq_true, false_and, if_false, decide_false] at hpc hregs hdelay
  exact ⟨t, hfin, hread, hout, hpc, hregs, hcpsr, hcore, hcalls, hdelay⟩

end Sys2Proof.Machine
end

section
/-! The statements of spec/49_thumb_branch.md: a conditional branch is a jump or nothing, the halves of BL are a register written and
a link with a jump. -/

namespace Sys2Proof.Machine

/-! ## Conditional branches -/

/-- Each of the fourteen runs the one meaning with its condition (R280). -/
theorem exec_thumbBranch {c : Cond} {soffset8 : BitVec 8} {i : Instr} (h : thumbBranch c soffset8 = some i) (s : State) :
    exec i s = thumbCondBranch c soffset8 s := by
  unfold thumbBranch at h
  split at h
  case h_15 | h_16 => cases h -- AL and NV have none
  all_goals cases h; rfl

/-- Settles O30: a jump to the target where the condition passed, and no effect but the frame's where it failed. -/
theorem thumbConditionalBranches : Obligations.ThumbConditionalBranches := by
  intro c soffset8 i s hi ht ha
  rw [exec_thumbBranch hi, thumbCondBranch]
  cases hc : conditionPassed c s.cpsr with
  | true =>
    obtain ⟨t, hfin, hpc, hregs, hcpsr, hmem, hsys, houts, hdelay⟩ :=
      branch_spec s _ s.params.cycles.branch (thumb_branch_target s 8 (by decide) ht ha soffset8)
    exact ⟨t, hfin, fun _ => ⟨hpc, hdelay⟩, fun h => absurd h.symm Bool.false_ne_true, hregs, hcpsr, hmem, hsys, houts⟩
  | false =>
    obtain ⟨t, hfin, hpc, hregs, hcpsr, hmem, hsys, houts, hdelay⟩ := noEffect_spec s 0
    rw [width_thumb ht] at hpc
    exact ⟨t, hfin, fun h => absurd h Bool.false_ne_true, fun _ => ⟨hpc, hdelay⟩, hregs, hcpsr, hmem, hsys, houts⟩

/-! ## BL -/

/-- The first half writes the high part of the target to the link register (R285). -/
theorem exec_tBlHigh (offset11 : BitVec 11) (s : State) :
    exec (.tBlHigh offset11) s =
      ((Run.start s).setX 14#4 (s.pc + 4#32 + BitVec.ofInt 32 (4096 * offset11.toInt))).finish 0 := by
  rw [show (4096 : Int) = 2 ^ 12 by rfl, ← signExtend_shiftLeft 11 12 offset11 (by decide)]; rfl

/-- The second half's offset as a number (R286). -/
theorem setWidth_shiftLeft_one (offset11 : BitVec 11) : offset11.setWidth 32 <<< 1 = BitVec.ofNat 32 (2 * offset11.toNat) := by
  rw [BitVec.shiftLeft_eq_mul_twoPow, setWidth_eq_ofNat 11 offset11 (by decide), Nat.mul_comm, BitVec.ofNat_mul]; rfl

/-- The second half links and jumps (R286). -/
theorem exec_tBlLow (offset11 : BitVec 11) (s : State) :
    exec (.tBlLow offset11) s =
      (((Run.start s).setX 14#4 ((s.pc + 2#32) ||| 1#32)).jump (s.x 14#4 + BitVec.ofNat 32 (2 * offset11.toNat))).finish
        s.params.cycles.branchLink := by
  rw [← setWidth_shiftLeft_one]; rfl

/-- Settles O31: the link register written, and the link with a jump. -/
theorem thumbBranchLinkHalves : Obligations.ThumbBranchLinkHalves := by
  intro offset11 s ht
  rw [exec_tBlHigh, exec_tBlLow, ← width_thumb ht]
  constructor
  · obtain ⟨t, hfin, hx, hrest⟩ := writeRegister_spec s 14#4 (s.pc + 4#32 + BitVec.ofInt 32 (4096 * offset11.toInt)) 0
    exact ⟨t, hfin, hx (by decide), hrest⟩
  · obtain ⟨t, hfin, hpc, hx, hrest⟩ :=
      branchLink_spec s ((s.pc + s.width) ||| 1#32) _ s.params.cycles.branchLink (alignTarget_thumb ht _)
    exact ⟨t, hfin, hx, hpc, hrest⟩

/-- The two halves' offsets add up to the joined one (R287). -/
theorem branchLink_offset (hi lo : BitVec 11) :
    BitVec.ofInt 32 (4096 * hi.toInt) + BitVec.ofNat 32 (2 * lo.toNat) = thumbOffset 22 (hi ++ lo) := by
  rw [thumbOffset, signExtend_shiftLeft 22 1 _ (by decide), ← BitVec.ofInt_natCast, ← BitVec.ofInt_add, BitVec.toInt_append,
    if_neg (by decide)]
  congr 1
  push_cast
  ring

/-- Settles O32: the second half runs on the link register the first half wrote. -/
theorem thumbBranchLinkPair : Obligations.ThumbBranchLinkPair := by
  intro hi lo s ht ha
  obtain ⟨⟨t, hhigh, tx, tpc, tregs, tcpsr, tmem, tsys, -, -⟩, -⟩ := thumbBranchLinkHalves hi s ht
  have ⟨_, tbank, _⟩ := tsys
  have tthumb : t.thumb = true := by rw [State.thumb_eq, tcpsr]; exact ht
  obtain ⟨-, u, hlow, ux, upc, uregs, ucpsr, umem, usys, -, -⟩ := thumbBranchLinkHalves lo t tthumb
  rw [tbank] at uregs
  refine ⟨t, u, hhigh, hlow, ?_, ?_, fun p hp hm => (uregs p hp hm).trans (tregs p hp hm), ucpsr.trans tcpsr,
    fun a => (umem a).trans (tmem a), systemKept_trans tsys usys⟩
  · calc u.pc = (t.x 14#4 + BitVec.ofNat 32 (2 * lo.toNat)) &&& 0xFFFFFFFE#32 := upc
      _ = s.alignTarget (s.pc + 4#32 + thumbOffset 22 (hi ++ lo)) := by
        rw [tx, BitVec.add_assoc _ _ (BitVec.ofNat 32 _), branchLink_offset, alignTarget_thumb ht]
      _ = s.pc + 4#32 + BitVec.ofInt 32 (2 * (hi ++ lo : BitVec 22).toInt) := thumb_branch_target s 22 (by decide) ht ha _
  · rw [ux, tpc, BitVec.add_assoc]; rfl

end Sys2Proof.Machine
end

section
/-! What User mode cannot change (spec/60_exceptions.md R305, R306): the relation `UserKept` holds from the start of an instruction to
each state it is led to by the operations of `Reach`, the SWI entry left out. -/

namespace Sys2Proof.Machine

/-- What User mode keeps: the control byte but T, the User bank map, the parameters, the SPSRs and every register of another bank. -/
structure UserKept (s t : State) : Prop where
  control : ∀ k < 8, k ≠ 5 → t.cpsr.getLsbD k = s.cpsr.getLsbD k
  bankMode : t.bankMode = s.bankMode
  params : t.params = s.params
  spsrs : SpsrsKept s t
  regs : ∀ p : PReg, p ∉ allRegs.map (phys .usr) → t.reg p = s.reg p

theorem UserKept.trans {s t u : State} (h : UserKept s t) (h' : UserKept t u) : UserKept s u where
  control k hk h5 := (h'.control k hk h5).trans (h.control k hk h5)
  bankMode := h'.bankMode.trans h.bankMode
  params := h'.params.trans h.params
  spsrs := spsrsKept_trans h.spsrs h'.spsrs
  regs p hp := (h'.regs p hp).trans (h.regs p hp)

/-- The mode number is in the control byte. -/
theorem UserKept.mode {s t : State} (h : UserKept s t) : Psr.mode t.cpsr = Psr.mode s.cpsr :=
  mode_congr fun k hk => h.control k (by omega) (by omega)

/-- The registers of the User bank are those `xusr` names (R14, R15). -/
theorem phys_usr_mem (i : Reg) : phys .usr i ∈ allRegs.map (phys .usr) :=
  List.mem_map_of_mem (by revert i; decide)

theorem pc_mem_usr : PReg.pc ∈ allRegs.map (phys .usr) := phys_usr_mem 15#4

/-! ## The operations -/

/-- A status word written over the same state, its control byte kept but for T. -/
theorem userKept_setCpsr (s : State) {p : Word} (h : ∀ k < 8, k ≠ 5 → p.getLsbD k = s.cpsr.getLsbD k) : UserKept s (s.setCpsr p) :=
  ⟨h, rfl, rfl, ⟨rfl, rfl, rfl, rfl, rfl⟩, fun _ _ => rfl⟩

/-- A write of a register of the User bank. -/
theorem userKept_setReg (s : State) {q : PReg} (hq : q ∈ allRegs.map (phys .usr)) (v : Word) : UserKept s (s.setReg q v) :=
  ⟨fun _ _ _ => rfl, rfl, rfl, ⟨rfl, rfl, rfl, rfl, rfl⟩, fun _ hp => s.reg_setReg_of_ne v fun e => hp (e ▸ hq)⟩

theorem userKept_writePc (s : State) (v : Word) : UserKept s (s.writePc v) := userKept_setReg s pc_mem_usr _

/-- In the User bank `x[i]` is a register of that bank (R14). -/
theorem userKept_setX {s : State} (hb : s.bankMode = .usr) (i : Reg) (v : Word) : UserKept s (s.setX i v) := by
  by_cases h : i = 15#4
  · subst h; exact userKept_writePc s v
  · rw [State.setX_of_ne s v h, hb]; exact userKept_setReg s (phys_usr_mem i) v

theorem userKept_setXusr (r : Run) (i : Reg) (v : Word) : UserKept r.st (r.setXusr i v).st := by
  unfold Run.setXusr
  split
  · exact userKept_writePc r.st v
  · exact userKept_setReg r.st (phys_usr_mem i) v

/-- User mode has no SPSR to write (R21). -/
theorem setSpsrCur_usr {s : State} (hb : s.bankMode = .usr) (v : Word) : s.setSpsrCur v = s := by
  rw [State.setSpsrCur, hb]; rfl

/-- Resolving the mode of User mode's own status word changes nothing (R17). -/
theorem resolveMode_usr {s : State} (hm : Psr.mode s.cpsr = 0x10#5) (hb : s.bankMode = .usr) : s.resolveMode = .ok s := by
  rw [State.resolveMode_some (m := .usr) (by rw [hm]; rfl), ← hb]; rfl

/-- In User mode an exception return is a jump: the status word it restores is the CPSR itself (R21, R121). -/
theorem exceptionReturn_usr {r q : Run} {v : Word} (hm : Psr.mode r.st.cpsr = 0x10#5) (hb : r.st.bankMode = .usr)
    (h : r.exceptionReturn v = .ok q) : q.st = r.st.writePc v := by
  obtain ⟨t, ht, hq⟩ := exceptionReturn_resolves h
  have hs : r.st.setCpsr r.st.spsrCur = r.st := by rw [State.spsrCur, hb]; rfl
  rw [hs, resolveMode_usr hm hb] at ht
  cases ht
  exact hq

/-- A merge under a mask without the control byte leaves that byte (R196). -/
theorem getLsbD_mergeBits_of_low {old v m : Word} (h : m.extractLsb' 0 8 = 0#8) {k : Nat} (hk : k < 8) :
    (mergeBits old v m).getLsbD k = old.getLsbD k := by
  have hz : m.getLsbD k = false := by simpa [hk] using congrArg (·.getLsbD k) h
  rw [mergeBits, BitVec.getLsbD_or, BitVec.getLsbD_and, BitVec.getLsbD_and, BitVec.getLsbD_not, hz]
  simp [show k < 32 by omega]

/-- In User mode under `blocked` MSR leaves the control byte (R196, R306). -/
theorem msrCpsrMask_usr {s : State} (hm : Psr.mode s.cpsr = 0x10#5) (hp : s.params.msrUserControl = .blocked) (mask : BitVec 4) :
    (s.msrCpsrMask mask).extractLsb' 0 8 = 0#8 :=
  (msrCpsrMask_lowByte_eq_zero s mask).2 (by simp [State.writesControl, hm, hp])

/-! ## An instruction -/

/-- Every operation but the SWI entry keeps what User mode keeps, under `blocked` (R305, R306). -/
theorem reach_userKept {A B : Prop} {s : State} {r : Run} (h : Reach A B s r) (hB : ¬ B) (hm : Psr.mode s.cpsr = 0x10#5)
    (hb : s.bankMode = .usr) (hp : s.params.msrUserControl = .blocked) : UserKept s r.st := by
  induction h with
  | start => exact ⟨fun _ _ _ => rfl, rfl, rfl, ⟨rfl, rfl, rfl, rfl, rfl⟩, fun _ _ => rfl⟩
  | flags h n z c v ih =>
    refine ih.trans (userKept_setCpsr _ fun k hk _ => ?_)
    rw [getLsbD_withFlags]
    repeat rw [if_neg (by omega)]
  | called h c ih => exact ih.trans ⟨fun _ _ _ => rfl, rfl, rfl, ⟨rfl, rfl, rfl, rfl, rfl⟩, fun _ _ => rfl⟩
  | setX h i v ih => rw [Run.st_setX]; exact ih.trans (userKept_setX (ih.bankMode.trans hb) i v)
  | setXusr h i v ih => exact ih.trans (userKept_setXusr _ i v)
  | jump h v ih => exact ih.trans (userKept_writePc _ v)
  | setSpsr h v ih => rw [Run.st_map, setSpsrCur_usr (ih.bankMode.trans hb)]; exact ih
  | exchange h hA b v ih =>
    refine (ih.trans (userKept_setCpsr _ fun k _ h5 => ?_)).trans (userKept_writePc _ v)
    rw [Psr.withT, getLsbD_setBit _ _ _ _ (by decide), if_neg h5]
  | restore h hA v he ih =>
    rw [exceptionReturn_usr (ih.mode.trans hm) (ih.bankMode.trans hb) he]
    exact ih.trans (userKept_writePc _ v)
  | entry h hA hB' ra ih => exact absurd hB' hB
  | @msr r h mask v t he ih =>
    have hmask := msrCpsrMask_usr (ih.mode.trans hm) (by rw [ih.params, hp]) mask
    rw [if_pos hmask] at he
    cases he
    exact ih.trans (userKept_setCpsr _ fun k hk _ => getLsbD_mergeBits_of_low hmask hk)

/-- The end of an instruction advances `pc`, a register of the User bank, and sets `delay` (R89). -/
theorem userKept_result (r : Run) (n : Nat) : UserKept r.st (r.result n) where
  control _ _ _ := by rw [Run.cpsr_result]
  bankMode := r.bankMode_result n
  params := r.params_result n
  spsrs := by simp [SpsrsKept]
  regs _ hp := r.reg_result n fun e => hp (e ▸ pc_mem_usr)

/-- Settles O57: an instruction that is no SWI is led to its end by operations that keep what User mode keeps. -/
theorem userModeIsConfined : Obligations.UserModeIsConfined := by
  intro i s t hm hb hp hswi h
  obtain ⟨r, n, hr, rfl⟩ := exec_reach i s t h
  have hk := (reach_userKept hr (by rw [hswi]; exact Bool.false_ne_true) hm hb hp).trans (userKept_result r n)
  exact ⟨hk.mode.trans hm, hk.bankMode.trans hb, hk.control 7 (by decide) (by decide), hk.control 6 (by decide) (by decide),
    hk.spsrs, hk.regs⟩

end Sys2Proof.Machine
end

section
/-! The statements of spec/60_exceptions.md about the IRQ: the check in its cases, the entry, and the return from it. -/

namespace Sys2Proof.Machine

/-! ## The source -/

/-- The source selected is the first of the lines that is enabled and pending (R310). -/
theorem irqSource_eq_some (s : State) (i : Nat) : s.irqSource = some i ↔
    i < s.params.irqLines ∧ s.irqEnable.testBit i = true ∧ s.irqPending.testBit i = true ∧
      ∀ j < i, ¬ (s.irqEnable.testBit j = true ∧ s.irqPending.testBit j = true) := by
  rw [State.irqSource, List.find?_range_eq_some, List.mem_range]
  simp only [Bool.and_eq_true, Bool.not_eq_true', Bool.eq_false_iff, ne_eq]
  tauto

/-- Some source waits exactly where one of the lines is enabled and pending (R310 step I2). -/
theorem irqWaiting_iff (s : State) : s.irqWaiting = true ↔
    ∃ i < s.params.irqLines, s.irqEnable.testBit i = true ∧ s.irqPending.testBit i = true := by
  simp [State.irqWaiting, State.irqSource, List.find?_isSome]

/-! ## The check -/

/-- With I set or nothing waiting no IRQ is taken (R310). -/
theorem irqTaken_eq_false {s : State} (h : Psr.i s.cpsr = true ∨ s.irqWaiting = false ∨ s.irqMaster = false) : s.irqTaken = false := by
  rcases h with h | h | h <;> simp [State.irqTaken, h]

theorem irqTaken_iff (s : State) : s.irqTaken = true ↔ Psr.i s.cpsr = false ∧ s.irqWaiting = true ∧ s.irqMaster = true := by
  simp [State.irqTaken, and_assoc]

/-- With the master switch off the check wakes the core alone (R310 step I3). -/
theorem interruptCheck_eq_wake {s : State} (hi : Psr.i s.cpsr = false) (hw : s.irqWaiting = true) (hm : s.irqMaster = false) :
    s.interruptCheck = s.wake := by
  simp [State.interruptCheck, hi, hw, hm]

/-- Where an IRQ is taken the check wakes the core and enters it (R310, R311). -/
theorem interruptCheck_eq_enterIrq {s : State} (h : s.irqTaken = true) : s.interruptCheck = s.wake.enterIrq := by
  obtain ⟨hi, hw, hm⟩ := (irqTaken_iff s).1 h
  simp [State.interruptCheck, hi, hw, hm]

/-- What the IRQ entry leaves (R304, R311). -/
theorem interruptCheck_taken {s : State} (h : s.irqTaken = true) :
    let t := s.interruptCheck
    t.spsrIrq = s.cpsr ∧ t.cpsr = (s.cpsr &&& 0xFFFFFF40#32) ||| 0x92#32 ∧ t.bankMode = .irq ∧
      t.reg .r14irq = s.pc + 4#32 ∧ t.pc = 0x00000018#32 ∧ RegsKept s t [.r14irq] ∧ t.spsrFiq = s.spsrFiq ∧
      t.spsrSvc = s.spsrSvc ∧ t.spsrAbt = s.spsrAbt ∧ t.spsrUnd = s.spsrUnd ∧ t.mem = s.mem ∧ t.halted = false ∧
      t.stopped = false ∧ t.outs = s.outs ++ [.wake] ∧ t.delay = s.delay ∧ t.pending = s.pending ∧
      t.opcode = s.opcode ∧ t.dead = s.dead ∧ t.irqEnable = s.irqEnable ∧ t.irqPending = s.irqPending ∧
      t.irqMaster = s.irqMaster ∧ t.reactions = s.reactions ∧ t.params = s.params := by
  have hreg (q : PReg) (hq : q ≠ .pc) := s.wake.enterException_reg .irq Config.vecIrq (s.pc + 4#32) q hq
  rw [interruptCheck_eq_enterIrq h, State.enterIrq, State.pc_wake]
  refine ⟨by simp, s.wake.enterException_cpsr .irq Config.vecIrq _, by simp, hreg .r14irq (by decide),
    s.wake.enterException_pc .irq Config.vecIrq _, fun p hp hm => (hreg p hp).trans (if_neg (List.ne_of_not_mem_cons hm)), ?_⟩
  simp

/-- Settles O43, case by case of R310. -/
theorem interruptCheck : Obligations.InterruptCheck := by
  intro s waiting t
  have hwaiting : s.irqWaiting = true ↔ waiting := irqWaiting_iff s
  refine ⟨fun hi => ?_, fun hw => ?_, fun hi hw hm => ?_, fun hi hw hm => ?_, irqSource_eq_some s⟩
  · exact ⟨interruptCheck_eq_self (.inl hi), irqTaken_eq_false (.inl hi)⟩
  · have hnone : s.irqWaiting = false := Bool.eq_false_iff.2 (mt hwaiting.1 hw)
    exact ⟨interruptCheck_eq_self (.inr hnone), irqTaken_eq_false (.inr (.inl hnone))⟩
  · exact ⟨interruptCheck_eq_wake hi (hwaiting.2 hw) hm, irqTaken_eq_false (.inr (.inr hm))⟩
  · have htaken := (irqTaken_iff s).2 ⟨hi, hwaiting.2 hw, hm⟩
    exact ⟨htaken, interruptCheck_taken htaken⟩

/-! ## The return -/

/-- Settles O60: the entry saves the CPSR and the address of the instruction plus 4, and the return of R121 restores both. -/
theorem irqReturnsExactly : Obligations.IrqReturnsExactly := by
  intro c s hirq ha hmode
  obtain ⟨tirq, tcpsr, tbank, tlink, -, tregs, tfiq, tsvc, tabt, tund, tmem, -⟩ := interruptCheck_taken hirq
  generalize s.interruptCheck = t at *
  have hthumb : t.thumb = false := by rw [State.thumb_eq, tcpsr]; simp [Psr.t]
  have hsaved : t.spsrOf t.bankMode = s.cpsr := by rw [tbank]; exact tirq
  have hlr : t.x 14#4 = s.pc + 4#32 := by rw [State.x_eq, tbank]; exact tlink
  obtain ⟨u, hret, ucpsr, ubank, upc, uregs, umem, ufiq, usvc, uabt, -, uund⟩ :=
    exec_dpInstr_restores (op := .sub) rfl c 14#4 (.imm 0#4 4#8) hthumb (by rw [tbank]; rfl) (by rwa [hsaved])
  have htarget : (DpForm.out (.imm 0#4 4#8) .sub t 14#4).r = s.pc :=
    calc _ = t.x 14#4 - 4#32 := addWithCarry_not_r _ _
      _ = s.pc := by rw [hlr, BitVec.add_sub_cancel]
  refine ⟨u, hret, ucpsr.trans hsaved, ubank, ?_, fun p hp hm => (uregs p hp List.not_mem_nil).trans (tregs p hp hm),
    fun a => (umem a).trans (congrArg (Memory.read8 · a) tmem), ufiq.trans tfiq, usvc.trans tsvc, uabt.trans tabt, uund.trans tund⟩
  rw [upc, htarget, hsaved, ← State.thumb_eq, ← alignTarget_eq]
  exact ha

end Sys2Proof.Machine
end

section
/-! Examples of the rules' encodings (spec/42_arm_data_processing.md to spec/49_thumb_branch.md). -/

namespace Sys2Proof.Machine

/-- Settles O47: each word's row of the tables is found and its fields read by evaluation. -/
theorem decodeExamples : Obligations.DecodeExamples :=
  ⟨rfl, rfl, rfl, rfl, rfl, rfl, rfl, rfl, rfl, rfl, rfl, rfl, rfl, rfl, rfl, rfl, rfl⟩

end Sys2Proof.Machine
end
